-- ==== Sys2Proof/Word.lean ====
section
/-! DEFINITION. The widths of CORE (00_scope.md R9, section 6) and the type of its word memories. -/

namespace Sys2Proof

/-- A datum of either bus, and a shift register (R9 `DATA_W`). -/
abbrev Byte := BitVec 8
/-- A CPU-side address (R9 `ADDR_W`), the address operand of a PPU-side operation (30_encoding.md R71), of which CORE
carries `PPU_ADDR_W` bits, and the snapshot register. -/
abbrev Addr := BitVec 16
/-- An operation word or a payload word (30_encoding.md R70). -/
abbrev Word := BitVec 32
/-- One audio sample, a two's complement `int16` that CORE only copies (45_audio_ring.md R183). -/
abbrev Sample := BitVec 16
/-- One pixel, opaque (10_state.md R19). -/
abbrev Pixel := BitVec 32
/-- The interrupt mask: `IRQ_W` bits, held in 256 so that every 8-bit source id has its bit (10_state.md R18). -/
abbrev IrqMask := BitVec 256

/-- A memory of `w`-bit words: (index, word) pairs with indices strictly rising and no word zero.  An unlisted index
reads as zero, the reset contents of both memories of CORE (10_state.md R19, R21). -/
abbrev Memory (w : Nat) := List (Nat × BitVec w)

/-- A frame: 61440 pixels, pixel (`x`, `y`) at index `y * 256 + x` (10_state.md R19). -/
abbrev Frame := Memory 32

end Sys2Proof
end

