-- ==== Sys2Proof/Config.lean ====
section
/-! DEFINITION. The parameters of CORE (00_scope.md R9) and the free values: the answers of collaborators (R8). -/

namespace Sys2Proof

/-- What an unmapped read returns: `UNMAPPED_READ` (R9). -/
def Config.unmappedRead : Byte := 0x00
/-- The pattern OR-ed into every port read: `OPEN_BUS`, bit 6 (R9). -/
def Config.openBus : Byte := 0x40
/-- The don't-care bits of a light-gun read (42_light_gun.md R133). -/
def Config.gunDontCare : Byte := 0xA7
/-- `FRAME_W`, `FRAME_H` and `FRAME_WORDS` (R9). -/
def Config.frameW : Nat := 256
def Config.frameH : Nat := 240
def Config.frameWords : Nat := 61440

/-- The byte a collaborator answers at the `n`-th returning call: any value (R8, D32, U8).  A FREE VALUE. -/
opaque Config.oracleByte : Nat → Byte
/-- The sample slot `i` of the ring holds after an overwrite of the oldest samples, the `n`-th free value drawn (U1).
A FREE VALUE. -/
opaque Config.overwrittenSample : Nat → Nat → Sample
/-- The bit `check_target_hit` answers at the `n`-th returning call: any value (R8, D32, U8).  A FREE VALUE. -/
opaque Config.oracleBit : Nat → Bool

/-- A range of CPU-side addresses, both ends included. -/
structure Range where
  base : Addr
  last : Addr
  deriving DecidableEq, Repr

/-- The CPU-side address map: the bounds of the four named regions and CORE's own three addresses (R9, 20_memory.md R41, R44). -/
structure AddrMap where
  low        : Range
  ppu        : Range
  io         : Range
  cart       : Range
  strobeAddr : Addr
  port1Addr  : Addr
  port2Addr  : Addr
  deriving DecidableEq, Repr

/-- `LOW_MODE` (R9, D4): the LOW region goes to WorkRam, or is unmapped. -/
inductive LowMode where
  | forward
  | unmapped
  deriving DecidableEq, Repr

/-- `OVERRUN_POLICY` (R9, U1). -/
inductive OverrunPolicy where
  | dropNewest
  | overwriteOldest
  deriving DecidableEq, Repr

/-- `IRQ_SRC_*` (R9, D15): the bit of each interrupt source the spec names.  Sources without a name have the other bits. -/
structure IrqSources where
  frameCounter   : Byte
  mapperScanline : Byte
  dmc            : Byte
  deriving DecidableEq, Repr

/-- The open parameters of CORE (R9). -/
structure Params where
  map        : AddrMap
  lowMode    : LowMode
  gunDc      : Byte           -- `GUN_DC`, seen through its mask
  ppuAddrW   : Nat            -- `PPU_ADDR_W`, in bits
  irqW       : Nat            -- `IRQ_W`
  irqSources : IrqSources     -- `IRQ_SRC_*`
  ringCap    : Nat            -- `RING_CAP`, in samples
  curW       : Nat            -- `CUR_W`, in bits
  overrun    : OverrunPolicy
  deriving DecidableEq, Repr

/-- The default map (R9, R41; its numbers are the spec's general knowledge, K2 to K6). -/
def AddrMap.default : AddrMap where
  low        := { base := 0x0000, last := 0x1FFF }
  ppu        := { base := 0x2000, last := 0x3FFF }
  io         := { base := 0x4000, last := 0x4017 }
  cart       := { base := 0x4020, last := 0xFFFF }
  strobeAddr := 0x4016
  port1Addr  := 0x4016
  port2Addr  := 0x4017

/-- The default numbers of the named sources (R9, D15). -/
def IrqSources.default : IrqSources where
  frameCounter   := 0
  mapperScanline := 1
  dmc            := 2

/-- The defaults of R9. -/
def Params.default : Params where
  map        := AddrMap.default
  lowMode    := .forward
  gunDc      := 0x00
  ppuAddrW   := 16
  irqW       := 8
  irqSources := IrqSources.default
  ringCap    := 8192
  curW       := 32
  overrun    := .dropNewest

/-- `M = 2^CUR_W`, the modulus of the cursors (45_audio_ring.md). -/
def Params.modulus (p : Params) : Nat := 2 ^ p.curW

end Sys2Proof
end

