-- ==== Sys2Proof/Syntax.lean ====
section
/-! DEFINITION. The operations of CORE as data: one constructor a row of spec/opcode_table.json (30_encoding.md R71, R74),
who presents them (00_scope.md R6) and in what form. -/

namespace Sys2Proof

/-- The five setters of PPUCFG, in the order of their index `k` (30_encoding.md R71). -/
inductive PpuSetter where
  | setIrqLatch
  | setIrqEnable
  | setIrqReload
  | setMapper
  | setMirroringMode
  deriving DecidableEq, Repr

/-- The operations of CORE.  The first twenty are the operation words of R71.  The others are the rows of the address
decode of R74: a CPU-side read (`cpur…`) or write (`cpuw…`) of the address the row's base plus the offset. -/
inductive Instr where
  | cpur (a : Addr)
  | cpuw (a : Addr) (v : Byte)
  | ppur (a : Addr)
  | ppuw (a : Addr) (v : Byte)
  | snap (b : BitVec 16)
  | gundn (x y : Byte)
  | gunup
  | guntg
  | irqa (src : Byte)
  | irqk (src : Byte)
  | irqv
  | fpub (f : BitVec 24)
  | facq
  | apush (samples : List Sample)
  | apull (n : Nat)
  | reset
  | stop
  | avail
  | setnmi (b : Bool)
  | ppucfg (k : PpuSetter) (val : Byte)
  | cpurLow0000 (off : BitVec 13)
  | cpuwLow0000 (off : BitVec 13) (v : Byte)
  | cpurPpu2000 (off : BitVec 13)
  | cpuwPpu2000 (off : BitVec 13) (v : Byte)
  | cpurIo4000 (off : BitVec 4)
  | cpuwIo4000 (off : BitVec 4) (v : Byte)
  | cpurIo4010 (off : BitVec 2)
  | cpuwIo4010 (off : BitVec 2) (v : Byte)
  | cpurIo4014 (off : BitVec 1)
  | cpuwIo4014 (off : BitVec 1) (v : Byte)
  | cpurPort1
  | cpuwStrobe (v : Byte)
  | cpurPort2
  | cpuwPort2 (v : Byte)
  | cpurUnmapped4018 (off : BitVec 3)
  | cpuwUnmapped4018 (off : BitVec 3) (v : Byte)
  | cpurCart4020 (off : BitVec 5)
  | cpuwCart4020 (off : BitVec 5) (v : Byte)
  | cpurCart4040 (off : BitVec 6)
  | cpuwCart4040 (off : BitVec 6) (v : Byte)
  | cpurCart4080 (off : BitVec 7)
  | cpuwCart4080 (off : BitVec 7) (v : Byte)
  | cpurCart4100 (off : BitVec 8)
  | cpuwCart4100 (off : BitVec 8) (v : Byte)
  | cpurCart4200 (off : BitVec 9)
  | cpuwCart4200 (off : BitVec 9) (v : Byte)
  | cpurCart4400 (off : BitVec 10)
  | cpuwCart4400 (off : BitVec 10) (v : Byte)
  | cpurCart4800 (off : BitVec 11)
  | cpuwCart4800 (off : BitVec 11) (v : Byte)
  | cpurCart5000 (off : BitVec 12)
  | cpuwCart5000 (off : BitVec 12) (v : Byte)
  | cpurCart6000 (off : BitVec 13)
  | cpuwCart6000 (off : BitVec 13) (v : Byte)
  | cpurCart8000 (off : BitVec 15)
  | cpuwCart8000 (off : BitVec 15) (v : Byte)
  deriving DecidableEq, Repr

/-- The eighteen rows of the address decode, each with its offset (R74). -/
inductive Row where
  | low0000 (off : BitVec 13)
  | ppu2000 (off : BitVec 13)
  | io4000 (off : BitVec 4)
  | io4010 (off : BitVec 2)
  | io4014 (off : BitVec 1)
  | port1Strobe
  | port2
  | unmapped4018 (off : BitVec 3)
  | cart4020 (off : BitVec 5)
  | cart4040 (off : BitVec 6)
  | cart4080 (off : BitVec 7)
  | cart4100 (off : BitVec 8)
  | cart4200 (off : BitVec 9)
  | cart4400 (off : BitVec 10)
  | cart4800 (off : BitVec 11)
  | cart5000 (off : BitVec 12)
  | cart6000 (off : BitVec 13)
  | cart8000 (off : BitVec 15)
  deriving DecidableEq, Repr

/-- The form an operation is presented in: operation words with their payload (R70, R78), or the CPU collaborator's own
calls `read(address)` and `write(address, value)` (format ADDR16, R74). -/
inductive Presented where
  | words (ws : List Word)
  | busRead (a : Addr)
  | busWrite (a : Addr) (v : Byte)
  deriving DecidableEq, Repr

/-- Why a presented form is no operation (30_encoding.md R73). -/
inductive DecodeError where
  | noWord              -- no operation word at all
  | mbzNotZero          -- bits 27:24 are not zero
  | fieldNotZero        -- an operand bit the operation does not use is not zero
  | reservedSub         -- SYS with `sub` 0x05 to 0xFF
  | reservedSetter      -- PPUCFG with `k` 5 to 7
  | outsideFrame        -- GUNDN with `y > 239`
  | noSuchSource        -- IRQA or IRQK with `s >= IRQ_W`
  | payloadLength       -- an APUSH without exactly `ceil(n / 2)` payload words
  | payloadHighHalf     -- an odd APUSH whose last word has a nonzero high half
  | trailingWords       -- payload words after an operation that has none
  deriving DecidableEq, Repr

/-- The agents that present operations (00_scope.md R6). -/
inductive Agent where
  | cpuMaster
  | ppuMaster
  | irqSource (src : Byte)
  | cpuIrqSense
  | cartCfg
  | frameProducer
  | audioProducer
  | inputCollector
  | frameConsumer
  | audioConsumer
  | host
  deriving DecidableEq, Repr

/-- The threads the agents run on (00_scope.md R6).  Input events may arrive on any thread, so they are one of their own. -/
inductive Thread where
  | emulation
  | presentation
  | audio
  | input
  | host
  deriving DecidableEq, Repr

/-- The threads that run a loop of their own, at whose top they load the running flag (00_scope.md R6, 60_exceptions.md
R216).  Mark: DEDUCED (log entry 30).  The audio callback is driven by its driver, and the spec does not say how it is
stopped (91_not_in_source.md N28): it never loads the flag, and APULL and AVAIL arrive until the end of the run. -/
inductive Loop where
  | emulation
  | presentation
  deriving DecidableEq, Repr

/-- The four operations with a step-level protocol, by the end that runs it (44_frame_channel.md R162, 45_audio_ring.md R178, R179). -/
inductive Side where
  | frameProducer
  | frameConsumer
  | audioProducer
  | audioConsumer
  deriving DecidableEq, Repr

/-- Whether an operation is taken as one atomic step or only begun, its protocol steps following (00_scope.md R5). -/
inductive Grain where
  | atomic
  | stepwise
  deriving DecidableEq, Repr

/-- One entry of the interleaving of the threads (00_scope.md R7): an operation an agent presents; the next protocol
step of an operation in progress, copying at most `n` elements where that step copies; or the load of the running flag at
the top of a loop's iteration (20_memory.md R58, 60_exceptions.md R216). -/
inductive Event where
  | present (agent : Agent) (grain : Grain) (what : Presented)
  | advance (side : Side) (n : Nat)
  | poll (loop : Loop)
  deriving DecidableEq, Repr

/-- The call CORE makes into a collaborator (00_scope.md R8). -/
inductive Call where
  | workRamReads (a : Addr)
  | workRamWrites (a : Addr) (v : Byte)
  | ppuReads (a : Addr)
  | ppuWrites (a : Addr) (v : Byte)
  | apuReads (a : Addr)
  | apuWrites (a : Addr) (v : Byte)
  | cartCpuReads (a : Addr)
  | cartCpuWrites (a : Addr) (v : Byte)
  | cartPpuReads (a : Addr)
  | cartPpuWrites (a : Addr) (v : Byte)
  | checkTargetHit (x y : Byte)
  | setNmi (b : Bool)
  | ppuSet (k : PpuSetter) (val : Byte)
  deriving DecidableEq, Repr

/-- The four conditions of 60_exceptions.md R200, with their information. -/
inductive Condition where
  | unmappedRead (a : Addr)          -- EC1, a read
  | unmappedWrite (a : Addr)         -- EC1, a write
  | peripheralToggle                 -- EC2
  | audioUnderrun (n avail : Nat)    -- EC3
  | audioOverrun (dropped : Nat)     -- EC4
  deriving DecidableEq, Repr

/-- What an operation returns to its caller (the result column of R71), or a loop's load of the running flag. -/
inductive Result where
  | none
  | byte (b : Byte)
  | mask (m : IrqMask)
  | frame (f : Frame)
  | samples (l : List Sample)
  | count (n : Nat)
  | flag (b : Bool)
  deriving DecidableEq, Repr

/-- How an operation uses the two channels between threads: the operations that have a step-level protocol, with their
operand (00_scope.md R5), RESET, and the rest. -/
inductive ChannelUse where
  | publish (f : BitVec 24)
  | acquire
  | push (samples : List Sample)
  | pull (n : Nat)
  | reset
  | none
  deriving DecidableEq, Repr

/-- The pseudo-operations (30_encoding.md R77). -/
inductive Pseudo where
  | strobe
  | read8Port1
  | read8Port2
  | gunset (c : Bool)
  deriving DecidableEq, Repr

end Sys2Proof
end

