-- ==== Sys2Proof/WellFormed.lean ====
section
/-! DEFINITION. Which parameters and which operations are legal (00_scope.md R9, 30_encoding.md R73). -/

namespace Sys2Proof

/-- `a` lies in the range. -/
def Range.has (r : Range) (a : Addr) : Bool := decide (r.base ≤ a) && decide (a ≤ r.last)

/-- One range ends before the other begins. -/
def Range.apart (r q : Range) : Bool := decide (r.last < q.base) || decide (q.last < r.base)

/-- The constraints R9 puts on a map: named regions pairwise disjoint, CORE's addresses in IO, two distinct ports. -/
def AddrMap.wf (m : AddrMap) : Bool :=
  m.low.apart m.ppu && m.low.apart m.io && m.low.apart m.cart && m.ppu.apart m.io && m.ppu.apart m.cart &&
    m.io.apart m.cart && m.io.has m.strobeAddr && m.io.has m.port1Addr && m.io.has m.port2Addr &&
    decide (m.port1Addr ≠ m.port2Addr)

/-- The named sources have bits of the mask, no two the same (92_eei_decisions.md D15: an injective numbering below `IRQ_W`). -/
def IrqSources.wf (q : IrqSources) (irqW : Nat) : Bool :=
  decide (q.frameCounter.toNat < irqW) && decide (q.mapperScanline.toNat < irqW) && decide (q.dmc.toNat < irqW) &&
    decide (q.frameCounter ≠ q.mapperScanline) && decide (q.frameCounter ≠ q.dmc) && decide (q.mapperScanline ≠ q.dmc)

/-- The constraints R9 puts on the parameters: `RING_CAP` a power of two, at most `2^(CUR_W-1)`; `IRQ_W >= 8`.  That
`PPU_ADDR_W` is 1 to 16, the bits an operation word has for the address, is the model's (DESIGN CHOICE, log entry 2). -/
def Params.wf (p : Params) : Bool :=
  p.map.wf && decide (1 ≤ p.ppuAddrW) && decide (p.ppuAddrW ≤ 16) && decide (8 ≤ p.irqW) && p.irqSources.wf p.irqW &&
    decide (1 ≤ p.curW) && decide (p.ringCap = 2 ^ p.ringCap.log2) && decide (p.ringCap ≤ 2 ^ (p.curW - 1))

/-- The operand limits of R72 and R73.  A row of the address decode is an operation of the default map only (R74). -/
def Instr.wf (p : Params) : Instr → Bool
  | .gundn _ y => decide (y.toNat ≤ 239)
  | .irqa src | .irqk src => decide (src.toNat < p.irqW)
  | .apush samples => decide (samples.length < 2 ^ 24)
  | .apull n => decide (n < 2 ^ 24)
  | .cpur _ | .cpuw _ _ | .ppur _ | .ppuw _ _ | .snap _ | .gunup | .guntg | .irqv | .fpub _ | .facq | .reset | .stop
  | .avail | .setnmi _ | .ppucfg _ _ => true
  | .cpurLow0000 _ | .cpuwLow0000 _ _ | .cpurPpu2000 _ | .cpuwPpu2000 _ _ | .cpurIo4000 _ | .cpuwIo4000 _ _
  | .cpurIo4010 _ | .cpuwIo4010 _ _ | .cpurIo4014 _ | .cpuwIo4014 _ _ | .cpurPort1 | .cpuwStrobe _ | .cpurPort2
  | .cpuwPort2 _ | .cpurUnmapped4018 _ | .cpuwUnmapped4018 _ _ | .cpurCart4020 _ | .cpuwCart4020 _ _
  | .cpurCart4040 _ | .cpuwCart4040 _ _ | .cpurCart4080 _ | .cpuwCart4080 _ _ | .cpurCart4100 _ | .cpuwCart4100 _ _
  | .cpurCart4200 _ | .cpuwCart4200 _ _ | .cpurCart4400 _ | .cpuwCart4400 _ _ | .cpurCart4800 _ | .cpuwCart4800 _ _
  | .cpurCart5000 _ | .cpuwCart5000 _ _ | .cpurCart6000 _ | .cpuwCart6000 _ _ | .cpurCart8000 _ | .cpuwCart8000 _ _ =>
    decide (p.map = AddrMap.default)

end Sys2Proof
end

