-- ==== Sys2Proof/Decode.lean ====
section
/-! DEFINITION. Decoding and encoding of operations: the operation word (30_encoding.md R70 to R73, R78), the address
decode (R74), the pseudo-operations (R77) and the text form (R76). -/

namespace Sys2Proof

/-! The three fields of an operation word (R70) and the operand fields inside `opd` (R71). -/

def opcOf (w : Word) : BitVec 4 := w.extractLsb' 28 4
def mbzOf (w : Word) : BitVec 4 := w.extractLsb' 24 4
def opdOf (w : Word) : BitVec 24 := w.extractLsb' 0 24

/-- The word with `opc` and `opd`, `mbz` zero. -/
def mkWord (opc : BitVec 4) (opd : BitVec 24) : Word := opc ++ (0#4 ++ opd)

/-- `opd[23:8]`. -/
def opdHi16 (d : BitVec 24) : BitVec 16 := d.extractLsb' 8 16
/-- `opd[23:16]`. -/
def opdHi8 (d : BitVec 24) : BitVec 8 := d.extractLsb' 16 8
/-- `opd[15:8]`. -/
def opdMid8 (d : BitVec 24) : BitVec 8 := d.extractLsb' 8 8
/-- `opd[7:0]`. -/
def opdLo8 (d : BitVec 24) : BitVec 8 := d.extractLsb' 0 8

/-- `opd` from its upper sixteen bits and its lower eight. -/
def mkOpd (hi : BitVec 16) (lo : BitVec 8) : BitVec 24 := hi ++ lo

/-! The fields of PPUCFG's `arg` (R71): `k = arg[15:13]`, `arg[12:8]` zero, `val = arg[7:0]`. -/

def argK (arg : BitVec 16) : BitVec 3 := arg.extractLsb' 13 3
def argGap (arg : BitVec 16) : BitVec 5 := arg.extractLsb' 8 5
def argVal (arg : BitVec 16) : BitVec 8 := arg.extractLsb' 0 8
def mkPpuArg (k : BitVec 3) (val : BitVec 8) : BitVec 16 := k ++ (0#5 ++ val)

/-- The setter numbered `k` (R71); 5 to 7 are reserved. -/
def PpuSetter.ofIndex (k : Nat) : Option PpuSetter :=
  match k with
  | 0 => some .setIrqLatch
  | 1 => some .setIrqEnable
  | 2 => some .setIrqReload
  | 3 => some .setMapper
  | 4 => some .setMirroringMode
  | _ => none

def PpuSetter.index (k : PpuSetter) : BitVec 3 :=
  match k with
  | .setIrqLatch => 0
  | .setIrqEnable => 1
  | .setIrqReload => 2
  | .setMapper => 3
  | .setMirroringMode => 4

/-- Lay samples out in payload words, the even one low (R78). -/
def packSamples : List Sample → List Word
  | [] => []
  | [a] => [0#16 ++ a]
  | a :: b :: rest => (b ++ a) :: packSamples rest

/-- Read exactly `n` samples from exactly `ceil(n / 2)` payload words (R73, R78). -/
def unpackSamples : Nat → List Word → Except DecodeError (List Sample)
  | 0, [] => .ok []
  | 0, _ :: _ => .error .payloadLength
  | _ + 1, [] => .error .payloadLength
  | 1, w :: ws =>
    if ws ≠ [] then .error .payloadLength
    else if w.extractLsb' 16 16 ≠ 0 then .error .payloadHighHalf
    else .ok [w.extractLsb' 0 16]
  | n + 2, w :: ws =>
    match unpackSamples n ws with
    | .error e => .error e
    | .ok l => .ok (w.extractLsb' 0 16 :: w.extractLsb' 16 16 :: l)

/-- An operand field the operation does not use must be zero (R71). -/
def needZero {n : Nat} (b : BitVec n) (r : Except DecodeError Instr) : Except DecodeError Instr :=
  if b = 0 then r else .error .fieldNotZero

/-- An operation other than APUSH is one word (R78). -/
def oneWord (payload : List Word) (r : Except DecodeError Instr) : Except DecodeError Instr :=
  if payload = [] then r else .error .trailingWords

/-- The SYS group (R71): `sub = opd[7:0]`, `arg = opd[23:8]`. -/
def decodeSys (d : BitVec 24) : Except DecodeError Instr :=
  match (opdLo8 d).toNat with
  | 0 => needZero (opdHi16 d) (.ok .reset)
  | 1 => needZero (opdHi16 d) (.ok .stop)
  | 2 => needZero (opdHi16 d) (.ok .avail)
  | 3 => needZero ((opdHi16 d).extractLsb' 1 15) (.ok (.setnmi ((opdHi16 d).getLsbD 0)))
  | 4 =>
    match PpuSetter.ofIndex (argK (opdHi16 d)).toNat with
    | none => .error .reservedSetter
    | some k => needZero (argGap (opdHi16 d)) (.ok (.ppucfg k (argVal (opdHi16 d))))
  | _ => .error .reservedSub

/-- A source id must be below `IRQ_W` (R73). -/
def sourceWord (p : Params) (d : BitVec 24) (mk : Byte → Instr) : Except DecodeError Instr :=
  needZero (opdHi16 d) (if (opdLo8 d).toNat < p.irqW then .ok (mk (opdLo8 d)) else .error .noSuchSource)

/-- One operation word with the payload words that follow it (R70, R71, R73, R78). -/
def decodeWords (p : Params) (w : Word) (payload : List Word) : Except DecodeError Instr :=
  if mbzOf w ≠ 0 then .error .mbzNotZero
  else
    let d := opdOf w
    match (opcOf w).toNat with
    | 0x0 => oneWord payload (needZero (opdLo8 d) (.ok (.cpur (opdHi16 d))))
    | 0x1 => oneWord payload (.ok (.cpuw (opdHi16 d) (opdLo8 d)))
    | 0x2 => oneWord payload (needZero (opdLo8 d) (.ok (.ppur (opdHi16 d))))
    | 0x3 => oneWord payload (.ok (.ppuw (opdHi16 d) (opdLo8 d)))
    | 0x4 => oneWord payload (needZero (opdLo8 d) (.ok (.snap (opdHi16 d))))
    | 0x5 =>
      oneWord payload (needZero (opdLo8 d)
        (if (opdMid8 d).toNat ≤ 239 then .ok (.gundn (opdHi8 d) (opdMid8 d)) else .error .outsideFrame))
    | 0x6 => oneWord payload (needZero d (.ok .gunup))
    | 0x7 => oneWord payload (needZero d (.ok .guntg))
    | 0x8 => oneWord payload (sourceWord p d .irqa)
    | 0x9 => oneWord payload (sourceWord p d .irqk)
    | 0xA => oneWord payload (needZero d (.ok .irqv))
    | 0xB => oneWord payload (.ok (.fpub d))
    | 0xC => oneWord payload (needZero d (.ok .facq))
    | 0xD =>
      match unpackSamples d.toNat payload with
      | .error e => .error e
      | .ok l => .ok (.apush l)
    | 0xE => oneWord payload (.ok (.apull d.toNat))
    | _ => oneWord payload (decodeSys d)

/-! The address decode (R74). -/

/-- The row an address falls in and its offset there.  `a.toNat >>> k` is `a[15:k]`, the bits the row's mask keeps. -/
def rowOf (a : Addr) : Row :=
  if a.toNat >>> 13 = 0 then .low0000 (a.setWidth 13)
  else if a.toNat >>> 13 = 1 then .ppu2000 (a.setWidth 13)
  else if a.toNat >>> 4 = 0x400 then .io4000 (a.setWidth 4)
  else if a.toNat >>> 2 = 0x1004 then .io4010 (a.setWidth 2)
  else if a.toNat >>> 1 = 0x200A then .io4014 (a.setWidth 1)
  else if a.toNat = 0x4016 then .port1Strobe
  else if a.toNat = 0x4017 then .port2
  else if a.toNat >>> 3 = 0x803 then .unmapped4018 (a.setWidth 3)
  else if a.toNat >>> 5 = 0x201 then .cart4020 (a.setWidth 5)
  else if a.toNat >>> 6 = 0x101 then .cart4040 (a.setWidth 6)
  else if a.toNat >>> 7 = 0x81 then .cart4080 (a.setWidth 7)
  else if a.toNat >>> 8 = 0x41 then .cart4100 (a.setWidth 8)
  else if a.toNat >>> 9 = 0x21 then .cart4200 (a.setWidth 9)
  else if a.toNat >>> 10 = 0x11 then .cart4400 (a.setWidth 10)
  else if a.toNat >>> 11 = 0x9 then .cart4800 (a.setWidth 11)
  else if a.toNat >>> 12 = 0x5 then .cart5000 (a.setWidth 12)
  else if a.toNat >>> 13 = 0x3 then .cart6000 (a.setWidth 13)
  else .cart8000 (a.setWidth 15)

/-- The address a row and an offset name: the row's match plus the offset. -/
def rowAddr : Row → Addr
  | .low0000 off => 0x0000#16 + off.setWidth 16
  | .ppu2000 off => 0x2000#16 + off.setWidth 16
  | .io4000 off => 0x4000#16 + off.setWidth 16
  | .io4010 off => 0x4010#16 + off.setWidth 16
  | .io4014 off => 0x4014#16 + off.setWidth 16
  | .port1Strobe => 0x4016#16
  | .port2 => 0x4017#16
  | .unmapped4018 off => 0x4018#16 + off.setWidth 16
  | .cart4020 off => 0x4020#16 + off.setWidth 16
  | .cart4040 off => 0x4040#16 + off.setWidth 16
  | .cart4080 off => 0x4080#16 + off.setWidth 16
  | .cart4100 off => 0x4100#16 + off.setWidth 16
  | .cart4200 off => 0x4200#16 + off.setWidth 16
  | .cart4400 off => 0x4400#16 + off.setWidth 16
  | .cart4800 off => 0x4800#16 + off.setWidth 16
  | .cart5000 off => 0x5000#16 + off.setWidth 16
  | .cart6000 off => 0x6000#16 + off.setWidth 16
  | .cart8000 off => 0x8000#16 + off.setWidth 16

/-- The (match, mask) pair of a row, as the table of R74 prints it. -/
def rowMatchMask : Row → Addr × Addr
  | .low0000 _ => (0x0000, 0xE000)
  | .ppu2000 _ => (0x2000, 0xE000)
  | .io4000 _ => (0x4000, 0xFFF0)
  | .io4010 _ => (0x4010, 0xFFFC)
  | .io4014 _ => (0x4014, 0xFFFE)
  | .port1Strobe => (0x4016, 0xFFFF)
  | .port2 => (0x4017, 0xFFFF)
  | .unmapped4018 _ => (0x4018, 0xFFF8)
  | .cart4020 _ => (0x4020, 0xFFE0)
  | .cart4040 _ => (0x4040, 0xFFC0)
  | .cart4080 _ => (0x4080, 0xFF80)
  | .cart4100 _ => (0x4100, 0xFF00)
  | .cart4200 _ => (0x4200, 0xFE00)
  | .cart4400 _ => (0x4400, 0xFC00)
  | .cart4800 _ => (0x4800, 0xF800)
  | .cart5000 _ => (0x5000, 0xF000)
  | .cart6000 _ => (0x6000, 0xE000)
  | .cart8000 _ => (0x8000, 0x8000)

/-- The read row of an address row. -/
def rowRead : Row → Instr
  | .low0000 off => .cpurLow0000 off
  | .ppu2000 off => .cpurPpu2000 off
  | .io4000 off => .cpurIo4000 off
  | .io4010 off => .cpurIo4010 off
  | .io4014 off => .cpurIo4014 off
  | .port1Strobe => .cpurPort1
  | .port2 => .cpurPort2
  | .unmapped4018 off => .cpurUnmapped4018 off
  | .cart4020 off => .cpurCart4020 off
  | .cart4040 off => .cpurCart4040 off
  | .cart4080 off => .cpurCart4080 off
  | .cart4100 off => .cpurCart4100 off
  | .cart4200 off => .cpurCart4200 off
  | .cart4400 off => .cpurCart4400 off
  | .cart4800 off => .cpurCart4800 off
  | .cart5000 off => .cpurCart5000 off
  | .cart6000 off => .cpurCart6000 off
  | .cart8000 off => .cpurCart8000 off

/-- The write row of an address row. -/
def rowWrite (r : Row) (v : Byte) : Instr :=
  match r with
  | .low0000 off => .cpuwLow0000 off v
  | .ppu2000 off => .cpuwPpu2000 off v
  | .io4000 off => .cpuwIo4000 off v
  | .io4010 off => .cpuwIo4010 off v
  | .io4014 off => .cpuwIo4014 off v
  | .port1Strobe => .cpuwStrobe v
  | .port2 => .cpuwPort2 v
  | .unmapped4018 off => .cpuwUnmapped4018 off v
  | .cart4020 off => .cpuwCart4020 off v
  | .cart4040 off => .cpuwCart4040 off v
  | .cart4080 off => .cpuwCart4080 off v
  | .cart4100 off => .cpuwCart4100 off v
  | .cart4200 off => .cpuwCart4200 off v
  | .cart4400 off => .cpuwCart4400 off v
  | .cart4800 off => .cpuwCart4800 off v
  | .cart5000 off => .cpuwCart5000 off v
  | .cart6000 off => .cpuwCart6000 off v
  | .cart8000 off => .cpuwCart8000 off v

/-- Decode what an agent presents.  The table of R74 is that of the default map; under another map the CPU's call
`read(a)` or `write(a, v)` is the operation CPUR `a` or CPUW `a, v` itself, whose region is the map's. -/
def decode (p : Params) : Presented → Except DecodeError Instr
  | .words [] => .error .noWord
  | .words (w :: payload) => decodeWords p w payload
  | .busRead a => .ok (if p.map = AddrMap.default then rowRead (rowOf a) else .cpur a)
  | .busWrite a v => .ok (if p.map = AddrMap.default then rowWrite (rowOf a) v else .cpuw a v)

/-! The encoder. -/

/-- The SYS word with `sub` and `arg`. -/
def mkSys (sub : BitVec 8) (arg : BitVec 16) : Presented := .words [mkWord 0xF (mkOpd arg sub)]

/-- The form that presents an operation (R71, R74, R78). -/
def encode : Instr → Presented
  | .cpur a => .words [mkWord 0x0 (mkOpd a 0)]
  | .cpuw a v => .words [mkWord 0x1 (mkOpd a v)]
  | .ppur a => .words [mkWord 0x2 (mkOpd a 0)]
  | .ppuw a v => .words [mkWord 0x3 (mkOpd a v)]
  | .snap b => .words [mkWord 0x4 (mkOpd b 0)]
  | .gundn x y => .words [mkWord 0x5 (mkOpd (x ++ y) 0)]
  | .gunup => .words [mkWord 0x6 0]
  | .guntg => .words [mkWord 0x7 0]
  | .irqa src => .words [mkWord 0x8 (mkOpd 0 src)]
  | .irqk src => .words [mkWord 0x9 (mkOpd 0 src)]
  | .irqv => .words [mkWord 0xA 0]
  | .fpub f => .words [mkWord 0xB f]
  | .facq => .words [mkWord 0xC 0]
  | .apush samples => .words (mkWord 0xD (BitVec.ofNat 24 samples.length) :: packSamples samples)
  | .apull n => .words [mkWord 0xE (BitVec.ofNat 24 n)]
  | .reset => mkSys 0x00 0
  | .stop => mkSys 0x01 0
  | .avail => mkSys 0x02 0
  | .setnmi b => mkSys 0x03 (BitVec.setWidth 16 (BitVec.ofBool b))
  | .ppucfg k val => mkSys 0x04 (mkPpuArg k.index val)
  | .cpurLow0000 off => .busRead (rowAddr (.low0000 off))
  | .cpuwLow0000 off v => .busWrite (rowAddr (.low0000 off)) v
  | .cpurPpu2000 off => .busRead (rowAddr (.ppu2000 off))
  | .cpuwPpu2000 off v => .busWrite (rowAddr (.ppu2000 off)) v
  | .cpurIo4000 off => .busRead (rowAddr (.io4000 off))
  | .cpuwIo4000 off v => .busWrite (rowAddr (.io4000 off)) v
  | .cpurIo4010 off => .busRead (rowAddr (.io4010 off))
  | .cpuwIo4010 off v => .busWrite (rowAddr (.io4010 off)) v
  | .cpurIo4014 off => .busRead (rowAddr (.io4014 off))
  | .cpuwIo4014 off v => .busWrite (rowAddr (.io4014 off)) v
  | .cpurPort1 => .busRead (rowAddr .port1Strobe)
  | .cpuwStrobe v => .busWrite (rowAddr .port1Strobe) v
  | .cpurPort2 => .busRead (rowAddr .port2)
  | .cpuwPort2 v => .busWrite (rowAddr .port2) v
  | .cpurUnmapped4018 off => .busRead (rowAddr (.unmapped4018 off))
  | .cpuwUnmapped4018 off v => .busWrite (rowAddr (.unmapped4018 off)) v
  | .cpurCart4020 off => .busRead (rowAddr (.cart4020 off))
  | .cpuwCart4020 off v => .busWrite (rowAddr (.cart4020 off)) v
  | .cpurCart4040 off => .busRead (rowAddr (.cart4040 off))
  | .cpuwCart4040 off v => .busWrite (rowAddr (.cart4040 off)) v
  | .cpurCart4080 off => .busRead (rowAddr (.cart4080 off))
  | .cpuwCart4080 off v => .busWrite (rowAddr (.cart4080 off)) v
  | .cpurCart4100 off => .busRead (rowAddr (.cart4100 off))
  | .cpuwCart4100 off v => .busWrite (rowAddr (.cart4100 off)) v
  | .cpurCart4200 off => .busRead (rowAddr (.cart4200 off))
  | .cpuwCart4200 off v => .busWrite (rowAddr (.cart4200 off)) v
  | .cpurCart4400 off => .busRead (rowAddr (.cart4400 off))
  | .cpuwCart4400 off v => .busWrite (rowAddr (.cart4400 off)) v
  | .cpurCart4800 off => .busRead (rowAddr (.cart4800 off))
  | .cpuwCart4800 off v => .busWrite (rowAddr (.cart4800 off)) v
  | .cpurCart5000 off => .busRead (rowAddr (.cart5000 off))
  | .cpuwCart5000 off v => .busWrite (rowAddr (.cart5000 off)) v
  | .cpurCart6000 off => .busRead (rowAddr (.cart6000 off))
  | .cpuwCart6000 off v => .busWrite (rowAddr (.cart6000 off)) v
  | .cpurCart8000 off => .busRead (rowAddr (.cart8000 off))
  | .cpuwCart8000 off v => .busWrite (rowAddr (.cart8000 off)) v

/-- The form an instruction of `nbits` bits `w` is presented in.  A row of sixteen bits is an address, whose access kind
the table gives no bit: with every bit above zero it is the read.  An operation word is followed by the payload of zero
words its count asks for (R78). -/
def presentBits (nbits w : Nat) : Presented :=
  if nbits ≤ 16 then .busRead (BitVec.ofNat 16 w)
  else
    let word : Word := BitVec.ofNat 32 w
    if opcOf word = 0xD then .words (word :: List.replicate (((opdOf word).toNat + 1) / 2) 0)
    else .words [word]

/-- The instruction the decoder reads, under the default parameters, from bits numbered as the opcode table numbers them. -/
def decodeTableWord (nbits w : Nat) : Option Instr :=
  match decode Params.default (presentBits nbits w) with
  | .ok i => some i
  | .error _ => none

/-! Text form (R76). -/

def hexDigit (n : Nat) : Char := Char.ofNat (if n % 16 < 10 then 48 + n % 16 else 55 + n % 16)

/-- `$` and four hex digits: an address. -/
def addrText (a : Addr) : List Char :=
  ['$', hexDigit (a.toNat / 4096), hexDigit (a.toNat / 256), hexDigit (a.toNat / 16), hexDigit a.toNat]

/-- `#$` and two hex digits: an 8-bit immediate. -/
def immText (v : Byte) : List Char := ['#', '$', hexDigit (v.toNat / 16), hexDigit v.toNat]

/-- Decimal, most significant digit first. -/
def decText (n : Nat) : List Char := Nat.toDigits 10 n

def sampleText (h : Sample) : List Char :=
  if h.toInt < 0 then '-' :: decText h.toInt.natAbs else decText h.toInt.natAbs

def commaText : List (List Char) → List Char
  | [] => []
  | [a] => a
  | a :: b :: rest => a ++ [',', ' '] ++ commaText (b :: rest)

def PpuSetter.text : PpuSetter → List Char
  | .setIrqLatch => "set_irq_latch".toList
  | .setIrqEnable => "set_irq_enable".toList
  | .setIrqReload => "set_irq_reload".toList
  | .setMapper => "set_mapper".toList
  | .setMirroringMode => "set_mirroring_mode".toList

def readText (a : Addr) : List Char := "CPUR ".toList ++ addrText a
def writeText (a : Addr) (v : Byte) : List Char := "CPUW ".toList ++ addrText a ++ [',', ' '] ++ immText v

/-- The line of assembler text of an operation, without result or comment; a frame is named `F` and its handle. -/
def asmText (i : Instr) : List Char :=
  match encode i with
  | .busRead a => readText a
  | .busWrite a v => writeText a v
  | .words _ =>
    match i with
    | .cpur a => readText a
    | .cpuw a v => writeText a v
    | .ppur a => "PPUR ".toList ++ addrText a
    | .ppuw a v => "PPUW ".toList ++ addrText a ++ [',', ' '] ++ immText v
    | .snap b => "SNAP #".toList ++ addrText b
    | .gundn x y => "GUNDN ".toList ++ commaText [decText x.toNat, decText y.toNat]
    | .gunup => "GUNUP".toList
    | .guntg => "GUNTG".toList
    | .irqa src => "IRQA ".toList ++ decText src.toNat
    | .irqk src => "IRQK ".toList ++ decText src.toNat
    | .irqv => "IRQV".toList
    | .fpub f => "FPUB F".toList ++ decText f.toNat
    | .facq => "FACQ".toList
    | .apush samples =>
      "APUSH ".toList ++ decText samples.length ++ ", [".toList ++ commaText (samples.map sampleText) ++ [']']
    | .apull n => "APULL ".toList ++ decText n
    | .reset => "RESET".toList
    | .stop => "STOP".toList
    | .avail => "AVAIL".toList
    | .setnmi b => "SETNMI ".toList ++ decText b.toNat
    | .ppucfg k val => "PPUCFG ".toList ++ k.text ++ [',', ' '] ++ immText val
    | _ => []

/-! Pseudo-operations (R77). -/

/-- The operations a pseudo-operation stands for, given the map and whether the gun is connected. -/
def Pseudo.expand (m : AddrMap) (connected : Bool) : Pseudo → List Instr
  | .strobe => [.cpuw m.strobeAddr 0x01, .cpuw m.strobeAddr 0x00]
  | .read8Port1 => List.replicate 8 (.cpur m.port1Addr)
  | .read8Port2 => List.replicate 8 (.cpur m.port2Addr)
  | .gunset c => if connected = c then [] else [.guntg]

end Sys2Proof
end

