-- ==== Sys2Proof/Machine/State.lean ====
section
/-! DEFINITION. The state of CORE (10_state.md) with the operations in progress (44_frame_channel.md R162,
45_audio_ring.md R178, R179), the model's own fields, the reasons a step can stop, and the state after reset. -/

namespace Sys2Proof.Machine

/-- The mutex of FrameChannel, `flock` (10_state.md R20). -/
inductive Lock where
  | free
  | heldP
  | heldC
  deriving DecidableEq, Repr

/-- Which step an FPUB in progress takes next (44_frame_channel.md R162 P1, P2, P3); `next` is the first pixel not yet copied. -/
inductive PublishStage where
  | lock
  | copy (next : Nat)
  | release
  deriving DecidableEq, Repr

/-- An FPUB in progress: the producer's frame and the step it is at. -/
structure Publish where
  frame : Frame
  stage : PublishStage
  deriving DecidableEq, Repr

/-- An FACQ in progress (R162 C1, C2, C3): `out` is the consumer's copy so far. -/
inductive Acquire where
  | lock
  | copy (out : Frame) (next : Nat)
  | release (out : Frame)
  deriving DecidableEq, Repr

/-- Which step an APUSH in progress takes next (45_audio_ring.md R178 P1, P2, P3): `w` the write cursor, `k` the samples
accepted, `next` the first not yet stored. -/
inductive PushStage where
  | claim
  | store (w k next : Nat)
  | publish (w k : Nat)
  deriving DecidableEq, Repr

/-- An APUSH in progress: its samples and the step it is at. -/
structure Push where
  samples : List Sample
  stage   : PushStage
  deriving DecidableEq, Repr

/-- Which step an APULL in progress takes next (45_audio_ring.md R179 C1, C2, C3): `r` the read cursor, `ok` whether
enough was available, `out` the samples so far. -/
inductive PullStage where
  | claim
  | copy (r : Nat) (ok : Bool) (out : List Sample)
  | free (r : Nat) (ok : Bool) (out : List Sample)
  deriving DecidableEq, Repr

/-- An APULL in progress: its count and the step it is at. -/
structure Pull where
  count : Nat
  stage : PullStage
  deriving DecidableEq, Repr

/-- The state of CORE and of the model around it.  Plain data. -/
structure State where
  -- InputLatch and the snapshot it reads (10_state.md R10 to R13)
  strobe         : Bool
  shift1         : Byte
  shift2         : Byte
  snapshot       : BitVec 16
  -- LightGunPeripheral (R14 to R17)
  gunX           : Byte
  gunY           : Byte
  trigger        : Bool
  lightSensed    : Bool
  connected      : Bool
  -- IRQLine (R18)
  irq            : IrqMask
  -- FrameChannel (R19, R20)
  slot           : Frame
  flock          : Lock
  -- AudioRing (R21 to R24)
  buf            : Memory 16
  wr             : Nat
  rd             : Nat
  overrunDropped : Nat
  -- the running flag (R25)
  running        : Bool
  -- operations in progress at step level (44_frame_channel.md R162, 45_audio_ring.md R178, R179)
  fprod          : Option Publish
  fcons          : Option Acquire
  aprod          : Option Push
  acons          : Option Pull
  -- the run: an operation or a loop's load was presented; which loops have observed `running = 0` (60_exceptions.md R211,
  -- R216, R217, 70_reset_and_hazards.md R230, R245)
  started           : Bool
  emulationEnded    : Bool
  presentationEnded : Bool
  -- the model's own: parameters, frame table, operations presented, calls made, conditions, result, oracle counter
  cfg            : Params
  frames         : List (Nat × Frame)
  inbox          : List Event
  calls          : List Call
  raised         : List Condition
  result         : Result
  draws          : Nat
  deriving DecidableEq, Repr

/-- CORE has no fault: no condition stops it (60_exceptions.md R200), so no constructor. -/
inductive Fault where
  deriving DecidableEq, Repr

/-- Why a step is refused.  Each is outside the admitted set of the spec, so each is safe: nothing is claimed about it. -/
inductive Refusal where
  /-- Raised by `exec` for an instruction without a meaning.  Safe. -/
  | notModelled (mnemonic : String)
  /-- Raised by `step` on a presented form that is no operation (30_encoding.md R73, U11).  Safe. -/
  | illegalWord (e : DecodeError)
  /-- Raised by IRQA and IRQK with `s >= IRQ_W` and GUNDN with `y > 239`, which no decoded operation has (R73).  Safe. -/
  | illegalOperand
  /-- Raised by `step` on an operation of an agent that does not own it (60_exceptions.md R211, U12).  Safe. -/
  | notOwner (agent : Agent)
  /-- Raised by `step` on an operation, or a load of the running flag, of a thread whose operation in progress has not
  completed (20_memory.md R54, R58; log entry 9, DEDUCED).  Safe. -/
  | threadBusy (thread : Thread)
  /-- Raised by `step` on an operation, or a load of the running flag, of a thread whose loop has observed `running = 0`
  (60_exceptions.md R216; log entry 22, DEDUCED).  Safe. -/
  | threadEnded (thread : Thread)
  /-- Raised by `step` on a RESET presented after any other entry of the run (60_exceptions.md R211,
  70_reset_and_hazards.md R245, U12).  Safe. -/
  | resetAfterStart
  /-- Raised by FPUB, FACQ, APUSH, APULL while their end runs one already: a second producer or consumer
  (70_reset_and_hazards.md R242, U12).  Safe. -/
  | secondUser (side : Side)
  /-- Raised by FPUB with a handle that names no frame of the table (30_encoding.md R78).  Safe. -/
  | noSuchFrame (f : BitVec 24)
  deriving DecidableEq, Repr

/-- The state right after reset (70_reset_and_hazards.md R230), with the default parameters and nothing presented. -/
def State.reset : State where
  strobe         := false
  shift1         := 0x00
  shift2         := 0x00
  snapshot       := 0x0000
  gunX           := 0
  gunY           := 0
  trigger        := false
  lightSensed    := false
  connected      := false
  irq            := 0
  slot           := []
  flock          := .free
  buf            := []
  wr             := 0
  rd             := 0
  overrunDropped := 0
  running        := true
  fprod          := none
  fcons          := none
  aprod          := none
  acons          := none
  started           := false
  emulationEnded    := false
  presentationEnded := false
  cfg            := Params.default
  frames         := []
  inbox          := []
  calls          := []
  raised         := []
  result         := .none
  draws          := 0

end Sys2Proof.Machine
end

