-- ==== Sys2Proof/Machine/Operands.lean ====
section
/-! DEFINITION. What an address operand selects (20_memory.md R41 to R44), where a pixel lies (10_state.md R19), the
cursor arithmetic of the ring (45_audio_ring.md R184), and who may present an operation (60_exceptions.md R211). -/

namespace Sys2Proof.Machine

/-- The regions of the CPU-side space (20_memory.md R41). -/
inductive Region where
  | low
  | ppu
  | io
  | cart
  | unmapped
  deriving DecidableEq, Repr

/-- `region(a)`: the one region that contains `a`; UNMAPPED is the complement of the other four (R41). -/
def region (m : AddrMap) (a : Addr) : Region :=
  if m.low.has a then .low
  else if m.ppu.has a then .ppu
  else if m.io.has a then .io
  else if m.cart.has a then .cart
  else .unmapped

/-- The canonical address of the PPU register `a` selects: `PPU_BASE + (a mod 8)` (20_memory.md R42). -/
def ppuRegister (m : AddrMap) (a : Addr) : Addr := m.ppu.base + a % 8#16

/-- The PPU-side address CORE carries for the operand `a`: its low `PPU_ADDR_W` bits, all of it at the default width
(00_scope.md R9, 20_memory.md R45, D28). -/
def ppuAddress (p : Params) (a : Addr) : Addr := BitVec.ofNat 16 (a.toNat % 2 ^ p.ppuAddrW)

/-- The index of pixel (`x`, `y`) in a frame (10_state.md R19). -/
def pixelIndex (x y : Nat) : Nat := y * Config.frameW + x

/-- The number a sample denotes: `sext(h)` (30_encoding.md R72). -/
def sampleValue (h : Sample) : Int := h.toInt

/-- `(wr - rd) mod M`, the samples in the ring (45_audio_ring.md R177). -/
def availOf (p : Params) (wr rd : Nat) : Nat := (((wr : Int) - (rd : Int)) % (p.modulus : Int)).toNat

/-- `free = RING_CAP - avail` (45_audio_ring.md R175). -/
def freeOf (p : Params) (wr rd : Nat) : Nat := p.ringCap - availOf p wr rd

/-- A cursor advanced by `k`, modulo `M` (45_audio_ring.md R184). -/
def advanceCursor (p : Params) (c k : Nat) : Nat := (c + k) % p.modulus

/-- The agent that owns an operation (R211); AVAIL has a second owner. -/
def owner : Instr → Agent
  | .cpur _ | .cpuw _ _ => .cpuMaster
  | .ppur _ | .ppuw _ _ | .setnmi _ => .ppuMaster
  | .snap _ | .gundn _ _ | .gunup | .guntg => .inputCollector
  | .irqa src | .irqk src => .irqSource src
  | .irqv => .cpuIrqSense
  | .fpub _ => .frameProducer
  | .facq => .frameConsumer
  | .apush _ => .audioProducer
  | .apull _ | .avail => .audioConsumer
  | .reset | .stop => .host
  | .ppucfg _ _ => .cartCfg
  | .cpurLow0000 _ | .cpuwLow0000 _ _ | .cpurPpu2000 _ | .cpuwPpu2000 _ _ | .cpurIo4000 _ | .cpuwIo4000 _ _
  | .cpurIo4010 _ | .cpuwIo4010 _ _ | .cpurIo4014 _ | .cpuwIo4014 _ _ | .cpurPort1 | .cpuwStrobe _ | .cpurPort2
  | .cpuwPort2 _ | .cpurUnmapped4018 _ | .cpuwUnmapped4018 _ _ | .cpurCart4020 _ | .cpuwCart4020 _ _
  | .cpurCart4040 _ | .cpuwCart4040 _ _ | .cpurCart4080 _ | .cpuwCart4080 _ _ | .cpurCart4100 _ | .cpuwCart4100 _ _
  | .cpurCart4200 _ | .cpuwCart4200 _ _ | .cpurCart4400 _ | .cpuwCart4400 _ _ | .cpurCart4800 _ | .cpuwCart4800 _ _
  | .cpurCart5000 _ | .cpuwCart5000 _ _ | .cpurCart6000 _ | .cpuwCart6000 _ _ | .cpurCart8000 _ | .cpuwCart8000 _ _ =>
    .cpuMaster

/-- How an operation uses the channels (00_scope.md R5). -/
def channelUse : Instr → ChannelUse
  | .fpub f => .publish f
  | .facq => .acquire
  | .apush samples => .push samples
  | .apull n => .pull n
  | .reset => .reset
  | .cpur _ | .cpuw _ _ | .ppur _ | .ppuw _ _ | .setnmi _ | .snap _ | .gundn _ _ | .gunup | .guntg | .irqa _ | .irqk _
  | .irqv | .avail | .stop | .ppucfg _ _
  | .cpurLow0000 _ | .cpuwLow0000 _ _ | .cpurPpu2000 _ | .cpuwPpu2000 _ _ | .cpurIo4000 _ | .cpuwIo4000 _ _
  | .cpurIo4010 _ | .cpuwIo4010 _ _ | .cpurIo4014 _ | .cpuwIo4014 _ _ | .cpurPort1 | .cpuwStrobe _ | .cpurPort2
  | .cpuwPort2 _ | .cpurUnmapped4018 _ | .cpuwUnmapped4018 _ _ | .cpurCart4020 _ | .cpuwCart4020 _ _
  | .cpurCart4040 _ | .cpuwCart4040 _ _ | .cpurCart4080 _ | .cpuwCart4080 _ _ | .cpurCart4100 _ | .cpuwCart4100 _ _
  | .cpurCart4200 _ | .cpuwCart4200 _ _ | .cpurCart4400 _ | .cpuwCart4400 _ _ | .cpurCart4800 _ | .cpuwCart4800 _ _
  | .cpurCart5000 _ | .cpuwCart5000 _ _ | .cpurCart6000 _ | .cpuwCart6000 _ _ | .cpurCart8000 _ | .cpuwCart8000 _ _ =>
    .none

/-- Whether `agent` may present `i` (00_scope.md R6, 60_exceptions.md R211). -/
def owns (agent : Agent) (i : Instr) : Bool :=
  decide (agent = owner i) || (decide (i = .avail) && decide (agent = .audioProducer))

/-- The thread an agent runs on (00_scope.md R6). -/
def threadOf : Agent → Thread
  | .cpuMaster | .ppuMaster | .irqSource _ | .cpuIrqSense | .cartCfg | .frameProducer | .audioProducer => .emulation
  | .frameConsumer => .presentation
  | .audioConsumer => .audio
  | .inputCollector => .input
  | .host => .host

/-- The thread that runs a loop (00_scope.md R6). -/
def threadOfLoop : Loop → Thread
  | .emulation => .emulation
  | .presentation => .presentation

/-- The thread that takes the protocol steps of an end (00_scope.md R6). -/
def threadOfSide : Side → Thread
  | .frameProducer | .audioProducer => .emulation
  | .frameConsumer => .presentation
  | .audioConsumer => .audio

/-- Whether a thread has an operation in progress (20_memory.md R54). -/
def threadBusy (s : State) : Thread → Bool
  | .emulation => s.fprod.isSome || s.aprod.isSome
  | .presentation => s.fcons.isSome
  | .audio => s.acons.isSome
  | .input => false
  | .host => false

/-- Whether a thread's loop has observed `running = 0`: it then presents nothing more (60_exceptions.md R216).  The other
threads have no loop (log entry 30). -/
def threadEnded (s : State) : Thread → Bool
  | .emulation => s.emulationEnded
  | .presentation => s.presentationEnded
  | .audio => false
  | .input => false
  | .host => false

end Sys2Proof.Machine
end

