-- ==== Sys2Proof/Machine/Flags.lean ====
section
/-! DEFINITION. CORE has no condition codes (10_state.md R26).  What stands here are the one-bit values operations
compute: the bytes the ports return (30_encoding.md R75), the shift of a controller register and the interrupt line. -/

namespace Sys2Proof.Machine

/-- The new strobe: bit 0 of the byte written, bits 7:1 ignored (30_encoding.md R75(a)). -/
def strobeBit (v : Byte) : Bool := v.getLsbD 0

/-- A controller port read: the data bit under the open-bus pattern (30_encoding.md R75(b), 41_input_latch.md R116). -/
def portByte (b : Bool) : Byte := Config.openBus ||| (BitVec.ofBool b).setWidth 8

/-- A light-gun read: trigger at bit 4, NOT lightSensed at bit 3, the don't-care bits from `GUN_DC` (42_light_gun.md R133). -/
def gunByte (dc : Byte) (trigger lightSensed : Bool) : Byte :=
  Config.openBus ||| ((BitVec.ofBool trigger).setWidth 8 <<< 4) ||| ((BitVec.ofBool (!lightSensed)).setWidth 8 <<< 3)
    ||| (dc &&& Config.gunDontCare)

/-- One read in Shifting: right by one, a 1 entering at bit 7 (41_input_latch.md R113). -/
def shiftIn (r : Byte) : Byte := 0x80 ||| (r >>> 1)

/-- Bit `s` of the mask (10_state.md R18). -/
def irqBit (src : Byte) : IrqMask := 1#256 <<< src.toNat

/-- The level the CPU collaborator sees: any nonzero mask is pending (43_irq_line.md R147). -/
def irqLine (m : IrqMask) : Bool := decide (m ≠ 0)

end Sys2Proof.Machine
end

