-- ==== Sys2Proof/Machine/Ops.lean ====
section
/-! DEFINITION. The shared operations: word memories, collaborator calls, the conditions of 60_exceptions.md, the bus
handlers, the input latch, and the frame and audio protocols step by step. -/

namespace Sys2Proof.Machine

/-! Word memories in canonical form. -/

/-- The word at an index; zero where none is listed. -/
def Memory.read {w : Nat} : Memory w → Nat → BitVec w
  | [], _ => 0
  | (j, u) :: m, i => if i = j then u else Memory.read m i

/-- Store a word, keeping the canonical form: storing zero removes the entry. -/
def Memory.write {w : Nat} : Memory w → Nat → BitVec w → Memory w
  | [], i, v => if v = 0 then [] else [(i, v)]
  | (j, u) :: m, i, v =>
    if i < j then (if v = 0 then (j, u) :: m else (i, v) :: (j, u) :: m)
    else if i = j then (if v = 0 then m else (i, v) :: m)
    else (j, u) :: Memory.write m i v

/-- `dst` with the words of indices `lo` to `hi - 1` taken from `src`. -/
def Memory.copy {w : Nat} (src dst : Memory w) (lo hi : Nat) : Memory w :=
  dst.filter (fun c => decide (c.1 < lo)) ++ src.filter (fun c => decide (lo ≤ c.1) && decide (c.1 < hi)) ++
    dst.filter (fun c => decide (lo ≤ c.1) && decide (hi ≤ c.1))

/-- Indices strictly rise from at least `lo`, none reaches `size`, no word is zero. -/
def Memory.wfFrom {w : Nat} (size : Nat) : Nat → Memory w → Bool
  | _, [] => true
  | lo, (i, v) :: m => decide (lo ≤ i) && decide (i < size) && decide (v ≠ 0) && Memory.wfFrom size (i + 1) m

/-- The canonical form of a memory of `size` words. -/
def Memory.wf {w : Nat} (size : Nat) (m : Memory w) : Bool := Memory.wfFrom size 0 m

/-! Returning, conditions and collaborator calls. -/

/-- An operation that returns nothing. -/
def noResult (s : State) : State := { s with result := .none }

/-- An operation's result. -/
def giveResult (r : Result) (s : State) : State := { s with result := r }

/-- `raise`: record that a condition occurred.  No control is transferred and no state of CORE changes
(00_scope.md section 6, 60_exceptions.md R200, R205): this is all CORE has of taking an exception, and there is no return. -/
def raise (c : Condition) (s : State) : State := { s with raised := s.raised ++ [c] }

/-- A call that returns nothing into a collaborator (00_scope.md R8, 20_memory.md R51). -/
def notify (c : Call) (s : State) : State := { s with calls := s.calls ++ [c], result := .none }

/-- A call that returns a byte, which the operation returns unchanged (R8, R51): the byte is a free value. -/
def query (c : Call) (s : State) : State :=
  { s with calls := s.calls ++ [c], result := .byte (Config.oracleByte s.draws), draws := s.draws + 1 }

/-! InputLatch and LightGunPeripheral. -/

/-- `Reload()` (41_input_latch.md R111). -/
def reload (s : State) : State :=
  { s with
    shift1 := s.snapshot.extractLsb' 0 8
    shift2 := if s.connected then s.shift2 else s.snapshot.extractLsb' 8 8 }

/-- `WriteStrobe(v)` (41_input_latch.md R112). -/
def writeStrobe (v : Byte) (s : State) : State :=
  let t := { s with strobe := strobeBit v, result := .none }
  if s.strobe || strobeBit v then reload t else t

/-- `ReadPort1()` (41_input_latch.md R113). -/
def readPort1 (s : State) : State :=
  if s.strobe then
    let t := reload s
    { t with result := .byte (portByte (t.shift1.getLsbD 0)) }
  else { s with shift1 := shiftIn s.shift1, result := .byte (portByte (s.shift1.getLsbD 0)) }

/-- `ReadShift2()` (41_input_latch.md R114). -/
def readShift2 (s : State) : State :=
  if s.strobe then
    let t := reload s
    { t with result := .byte (portByte (t.shift2.getLsbD 0)) }
  else { s with shift2 := shiftIn s.shift2, result := .byte (portByte (s.shift2.getLsbD 0)) }

/-- `ReadGun()` (42_light_gun.md R133). -/
def readGun (s : State) : State := { s with result := .byte (gunByte s.cfg.gunDc s.trigger s.lightSensed) }

/-- `ReadPort2()` (40_bus.md R95). -/
def readPort2 (s : State) : State := if s.connected then readGun s else readShift2 s

/-! The handlers of the CPU-side regions (40_bus.md). -/

/-- R97: an unmapped read returns 0x00 and raises EC1. -/
def readUnmapped (a : Addr) (s : State) : State :=
  giveResult (.byte Config.unmappedRead) (raise (.unmappedRead a) s)

/-- R108: an unmapped write is discarded and raises EC1. -/
def writeUnmapped (a : Addr) (s : State) : State := noResult (raise (.unmappedWrite a) s)

/-- R91. -/
def readLow (a : Addr) (s : State) : State :=
  match s.cfg.lowMode with
  | .forward => query (.workRamReads a) s
  | .unmapped => readUnmapped a s

/-- R99. -/
def writeLow (a : Addr) (v : Byte) (s : State) : State :=
  match s.cfg.lowMode with
  | .forward => notify (.workRamWrites a v) s
  | .unmapped => writeUnmapped a s

/-- R92. -/
def readPpu (a : Addr) (s : State) : State := query (.ppuReads (ppuRegister s.cfg.map a)) s

/-- R100. -/
def writePpu (a : Addr) (v : Byte) (s : State) : State := notify (.ppuWrites (ppuRegister s.cfg.map a) v) s

/-- R93. -/
def readApu (a : Addr) (s : State) : State := query (.apuReads a) s

/-- R101. -/
def writeApu (a : Addr) (v : Byte) (s : State) : State := notify (.apuWrites a v) s

/-- R96. -/
def readCart (a : Addr) (s : State) : State := query (.cartCpuReads a) s

/-- R103. -/
def writeCart (a : Addr) (v : Byte) (s : State) : State := notify (.cartCpuWrites a v) s

/-- `BusRead(a)` (R90). -/
def busRead (a : Addr) (s : State) : State :=
  match region s.cfg.map a with
  | .low => readLow a s
  | .ppu => readPpu a s
  | .io =>
    if a = s.cfg.map.port1Addr then readPort1 s
    else if a = s.cfg.map.port2Addr then readPort2 s
    else readApu a s
  | .cart => readCart a s
  | .unmapped => readUnmapped a s

/-- `BusWrite(a, v)` (R98). -/
def busWrite (a : Addr) (v : Byte) (s : State) : State :=
  match region s.cfg.map a with
  | .low => writeLow a v s
  | .ppu => writePpu a v s
  | .io => if a = s.cfg.map.strobeAddr then writeStrobe v s else writeApu a v s
  | .cart => writeCart a v s
  | .unmapped => writeUnmapped a s

/-! FrameChannel, step by step (44_frame_channel.md R162). -/

/-- The frame a handle names (30_encoding.md R78). -/
def frameOf (s : State) (f : BitVec 24) : Option Frame := s.frames.lookup f.toNat

/-- The next step of the FPUB in progress.  P1 waits while the lock is held; P2 copies at most `n` pixels. -/
def advancePublish (n : Nat) (s : State) : State :=
  match s.fprod with
  | none => noResult s
  | some pub =>
    match pub.stage with
    | .lock =>
      if s.flock = .free then
        { s with flock := .heldP, fprod := some { pub with stage := .copy 0 }, result := .none }
      else noResult s
    | .copy next =>
      let upto := min (next + n) Config.frameWords
      { s with
        slot := Memory.copy pub.frame s.slot next upto
        fprod := some { pub with stage := if Config.frameWords ≤ next + n then .release else .copy upto }
        result := .none }
    | .release => { s with flock := .free, fprod := none, result := .none }

/-- The next step of the FACQ in progress.  C1 waits while the lock is held; C2 copies at most `n` pixels; C3 returns. -/
def advanceAcquire (n : Nat) (s : State) : State :=
  match s.fcons with
  | none => noResult s
  | some .lock =>
    if s.flock = .free then { s with flock := .heldC, fcons := some (.copy [] 0), result := .none } else noResult s
  | some (.copy out next) =>
    let upto := min (next + n) Config.frameWords
    let out' := Memory.copy s.slot out next upto
    { s with
      fcons := some (if Config.frameWords ≤ next + n then .release out' else .copy out' upto)
      result := .none }
  | some (.release out) => { s with flock := .free, fcons := none, result := .frame out }

/-- FPUB as one step (R160).  If the lock is held the producer waits at P1 (R162). -/
def publish (F : Frame) (s : State) : State :=
  if s.flock = .free then { s with slot := F, result := .none }
  else { s with fprod := some { frame := F, stage := .lock }, result := .none }

/-- FACQ as one step (R161).  If the lock is held the consumer waits at C1 (R162). -/
def acquire (s : State) : State :=
  if s.flock = .free then { s with result := .frame s.slot }
  else { s with fcons := some .lock, result := .none }

/-! AudioRing (45_audio_ring.md). -/

/-- `buf[c mod RING_CAP]`, `buf[(c + 1) mod RING_CAP]`, … take the samples (R175, R184). -/
def storeRun (cap : Nat) : Memory 16 → Nat → List Sample → Memory 16
  | m, _, [] => m
  | m, c, x :: xs => storeRun cap (Memory.write m (c % cap) x) (c + 1) xs

/-- The `n` samples from cursor position `c` on (R176, R184). -/
def loadRun (cap : Nat) (m : Memory 16) (c n : Nat) : List Sample :=
  (List.range n).map (fun i => Memory.read m ((c + i) % cap))

/-- Silence (R183). -/
def silence (n : Nat) : List Sample := List.replicate n 0

/-- How many of `n` samples APUSH accepts: `min(n, free)` (R175). -/
def acceptOf (p : Params) (wr rd n : Nat) : Nat := min n (freeOf p wr rd)

/-- The contents of a ring whose oldest samples were overwritten: any samples (93_implementation_defined.md U1). -/
def freeRing (cap draw : Nat) : Memory 16 :=
  (List.range cap).filterMap fun i =>
    if Config.overwrittenSample draw i = 0 then none else some (i, Config.overwrittenSample draw i)

/-- What an APUSH that accepted `k` of `n` samples does to the contents beyond R175: under `OverwriteOldest`, where some
did not fit, the ring holds any samples (U1); nothing otherwise. -/
def overwriteOldest (k n : Nat) (s : State) : State :=
  if k < n ∧ s.cfg.overrun = .overwriteOldest then
    { s with buf := freeRing s.cfg.ringCap s.draws, draws := s.draws + 1 }
  else s

/-- The end of an APUSH that accepted `k` of `n` samples at cursor `w` (R175, R178 P3): publish them, count the rest
(EC4).  The ring is then full under either policy.  A step-level APUSH raises EC4 here, at P3, where R178 counts the dropped
samples; R178 itself has no raise.  Mark: DESIGN CHOICE (log entry 29). -/
def publishSamples (w k n : Nat) (s : State) : State :=
  let t := overwriteOldest k n
    { s with wr := advanceCursor s.cfg w k, overrunDropped := s.overrunDropped + (n - k), result := .none }
  if k < n then raise (.audioOverrun (n - k)) t else t

/-- APUSH as one step (R175). -/
def pushSamples (samples : List Sample) (s : State) : State :=
  let k := acceptOf s.cfg s.wr s.rd samples.length
  publishSamples s.wr k samples.length
    { s with buf := storeRun s.cfg.ringCap s.buf s.wr (samples.take k) }

/-- APULL as one step (R176). -/
def pullSamples (n : Nat) (s : State) : State :=
  if n ≤ availOf s.cfg s.wr s.rd then
    { s with
      rd := advanceCursor s.cfg s.rd n
      result := .samples (loadRun s.cfg.ringCap s.buf s.rd n) }
  else
    raise (.audioUnderrun n (availOf s.cfg s.wr s.rd)) { s with result := .samples (silence n) }

/-- The next step of the APUSH in progress (R178).  P2 stores at most `n` samples. -/
def advancePush (n : Nat) (s : State) : State :=
  match s.aprod with
  | none => noResult s
  | some push =>
    match push.stage with
    | .claim =>
      let k := acceptOf s.cfg s.wr s.rd push.samples.length
      overwriteOldest k push.samples.length
        { s with aprod := some { push with stage := .store s.wr k 0 }, result := .none }
    | .store w k next =>
      let upto := min (next + n) k
      { s with
        buf := storeRun s.cfg.ringCap s.buf (w + next) ((push.samples.take upto).drop next)
        aprod := some { push with stage := if k ≤ next + n then .publish w k else .store w k upto }
        result := .none }
    | .publish w k => publishSamples w k push.samples.length { s with aprod := none }

/-- The next step of the APULL in progress (R179).  C1 decides between success and silence; C2 copies at most `n` samples.
A step-level APULL raises EC3 at C1, where that is decided, before C3 returns the silence; R179 itself has no raise and
60_exceptions.md R203 names no step.  Mark: DESIGN CHOICE (log entry 29). -/
def advancePull (n : Nat) (s : State) : State :=
  match s.acons with
  | none => noResult s
  | some pull =>
    match pull.stage with
    | .claim =>
      let avail := availOf s.cfg s.wr s.rd
      let t := { s with
        acons := some { pull with stage := .copy s.rd (decide (pull.count ≤ avail)) [] }
        result := .none }
      if pull.count ≤ avail then t else raise (.audioUnderrun pull.count avail) t
    | .copy r ok out =>
      let k := min n (pull.count - out.length)
      let out' := out ++ (if ok then loadRun s.cfg.ringCap s.buf (r + out.length) k else silence k)
      { s with
        acons := some { pull with stage := if pull.count - out.length ≤ n then .free r ok out' else .copy r ok out' }
        result := .none }
    | .free r ok out =>
      { s with
        rd := if ok then advanceCursor s.cfg r pull.count else s.rd
        acons := none
        result := .samples out }

/-- The next protocol step of an end, copying at most `n` elements where that step copies; nothing where no operation is
in progress or its step is not enabled. -/
def advance (side : Side) (n : Nat) (s : State) : Host.Outcome State Fault Refusal :=
  match side with
  | .frameProducer => .next (advancePublish n s)
  | .frameConsumer => .next (advanceAcquire n s)
  | .audioProducer => .next (advancePush n s)
  | .audioConsumer => .next (advancePull n s)

/-! RESET and the running flag. -/

/-- A loop has observed `running = 0` (60_exceptions.md R216, R217). -/
def endLoop (loop : Loop) (s : State) : State :=
  match loop with
  | .emulation => { s with emulationEnded := true }
  | .presentation => { s with presentationEnded := true }

/-- The load-acquire of `running` at the top of a loop's iteration; a loop that observes 0 ends (20_memory.md R58,
60_exceptions.md R216). -/
def pollRunning (loop : Loop) (s : State) : State :=
  giveResult (.flag s.running) (if s.running then s else endLoop loop s)

/-- RESET: every state element at its reset value, no operation in progress and no loop ended, the model's own fields kept
(70_reset_and_hazards.md R230). -/
def resetState (s : State) : State :=
  { State.reset with
    started := s.started
    cfg := s.cfg
    frames := s.frames
    inbox := s.inbox
    calls := s.calls
    raised := s.raised
    draws := s.draws }

end Sys2Proof.Machine
end

