-- ==== Sys2Proof/Machine/AudioRing.lean ====
section
/-! DEFINITION. APUSH, APULL and AVAIL (45_audio_ring.md): as one step, and begun for the step-level protocol. -/

namespace Sys2Proof.Machine

/-- APUSH (R175). -/
def execApush (samples : List Sample) (s : State) : Host.Outcome State Fault Refusal :=
  if s.aprod.isSome then .refused (.secondUser .audioProducer)
  else .next (pushSamples samples s)

/-- APULL (R176). -/
def execApull (n : Nat) (s : State) : Host.Outcome State Fault Refusal :=
  if s.acons.isSome then .refused (.secondUser .audioConsumer) else .next (pullSamples n s)

/-- AVAIL (R177): the exact difference of the cursors, both loaded in this one step.  Mark: DESIGN CHOICE (log entry 28).  For an
AVAIL that an APUSH or APULL overlaps, U14 of 93_implementation_defined.md admits any value within the bounds. -/
def execAvail (s : State) : Host.Outcome State Fault Refusal :=
  .next (giveResult (.count (availOf s.cfg s.wr s.rd)) s)

/-- Begin an APUSH: its next step is P1 (R178). -/
def beginApush (samples : List Sample) (s : State) : Host.Outcome State Fault Refusal :=
  if s.aprod.isSome then .refused (.secondUser .audioProducer)
  else .next { s with aprod := some { samples := samples, stage := .claim }, result := .none }

/-- Begin an APULL: its next step is C1 (R179). -/
def beginApull (n : Nat) (s : State) : Host.Outcome State Fault Refusal :=
  if s.acons.isSome then .refused (.secondUser .audioConsumer)
  else .next { s with acons := some { count := n, stage := .claim }, result := .none }

end Sys2Proof.Machine
end

