-- ==== Sys2Proof/Machine/Bus.lean ====
section
/-! DEFINITION. The Bus operations CPUR, CPUW, PPUR, PPUW, SETNMI and PPUCFG (40_bus.md). -/

namespace Sys2Proof.Machine

/-- CPUR (R90). -/
def execCpur (a : Addr) (s : State) : Host.Outcome State Fault Refusal := .next (busRead a s)

/-- CPUW (R98). -/
def execCpuw (a : Addr) (v : Byte) (s : State) : Host.Outcome State Fault Refusal := .next (busWrite a v s)

/-- PPUR (R104). -/
def execPpur (a : Addr) (s : State) : Host.Outcome State Fault Refusal :=
  .next (query (.cartPpuReads (ppuAddress s.cfg a)) s)

/-- PPUW (R105). -/
def execPpuw (a : Addr) (v : Byte) (s : State) : Host.Outcome State Fault Refusal :=
  .next (notify (.cartPpuWrites (ppuAddress s.cfg a) v) s)

/-- SETNMI (R106). -/
def execSetnmi (b : Bool) (s : State) : Host.Outcome State Fault Refusal := .next (notify (.setNmi b) s)

/-- PPUCFG (R107). -/
def execPpucfg (k : PpuSetter) (val : Byte) (s : State) : Host.Outcome State Fault Refusal :=
  .next (notify (.ppuSet k val) s)

end Sys2Proof.Machine
end

