-- ==== Sys2Proof/Machine/BusRows.lean ====
section
/-! DEFINITION. The rows of the address decode (30_encoding.md R74): a CPU-side read or write handed to the row's handler
(40_bus.md R91 to R97, R99 to R103, R108). -/

namespace Sys2Proof.Machine

/-- R91. -/
def execCpurLow0000 (off : BitVec 13) (s : State) : Host.Outcome State Fault Refusal :=
  .next (readLow (rowAddr (.low0000 off)) s)

/-- R99. -/
def execCpuwLow0000 (off : BitVec 13) (v : Byte) (s : State) : Host.Outcome State Fault Refusal :=
  .next (writeLow (rowAddr (.low0000 off)) v s)

/-- R92. -/
def execCpurPpu2000 (off : BitVec 13) (s : State) : Host.Outcome State Fault Refusal :=
  .next (readPpu (rowAddr (.ppu2000 off)) s)

/-- R100. -/
def execCpuwPpu2000 (off : BitVec 13) (v : Byte) (s : State) : Host.Outcome State Fault Refusal :=
  .next (writePpu (rowAddr (.ppu2000 off)) v s)

/-- R93. -/
def execCpurIo4000 (off : BitVec 4) (s : State) : Host.Outcome State Fault Refusal :=
  .next (readApu (rowAddr (.io4000 off)) s)

/-- R101. -/
def execCpuwIo4000 (off : BitVec 4) (v : Byte) (s : State) : Host.Outcome State Fault Refusal :=
  .next (writeApu (rowAddr (.io4000 off)) v s)

/-- R93. -/
def execCpurIo4010 (off : BitVec 2) (s : State) : Host.Outcome State Fault Refusal :=
  .next (readApu (rowAddr (.io4010 off)) s)

/-- R101. -/
def execCpuwIo4010 (off : BitVec 2) (v : Byte) (s : State) : Host.Outcome State Fault Refusal :=
  .next (writeApu (rowAddr (.io4010 off)) v s)

/-- R93. -/
def execCpurIo4014 (off : BitVec 1) (s : State) : Host.Outcome State Fault Refusal :=
  .next (readApu (rowAddr (.io4014 off)) s)

/-- R101. -/
def execCpuwIo4014 (off : BitVec 1) (v : Byte) (s : State) : Host.Outcome State Fault Refusal :=
  .next (writeApu (rowAddr (.io4014 off)) v s)

/-- R94: controller port 1. -/
def execCpurPort1 (s : State) : Host.Outcome State Fault Refusal := .next (readPort1 s)

/-- R102: the strobe register. -/
def execCpuwStrobe (v : Byte) (s : State) : Host.Outcome State Fault Refusal := .next (writeStrobe v s)

/-- R95: controller port 2, or the light gun. -/
def execCpurPort2 (s : State) : Host.Outcome State Fault Refusal := .next (readPort2 s)

/-- R101: a write of the port-2 address goes to the APU. -/
def execCpuwPort2 (v : Byte) (s : State) : Host.Outcome State Fault Refusal :=
  .next (writeApu (rowAddr .port2) v s)

/-- R97. -/
def execCpurUnmapped4018 (off : BitVec 3) (s : State) : Host.Outcome State Fault Refusal :=
  .next (readUnmapped (rowAddr (.unmapped4018 off)) s)

/-- R108. -/
def execCpuwUnmapped4018 (off : BitVec 3) (_ : Byte) (s : State) : Host.Outcome State Fault Refusal :=
  .next (writeUnmapped (rowAddr (.unmapped4018 off)) s)

/-- R96. -/
def execCpurCart4020 (off : BitVec 5) (s : State) : Host.Outcome State Fault Refusal :=
  .next (readCart (rowAddr (.cart4020 off)) s)

/-- R103. -/
def execCpuwCart4020 (off : BitVec 5) (v : Byte) (s : State) : Host.Outcome State Fault Refusal :=
  .next (writeCart (rowAddr (.cart4020 off)) v s)

/-- R96. -/
def execCpurCart4040 (off : BitVec 6) (s : State) : Host.Outcome State Fault Refusal :=
  .next (readCart (rowAddr (.cart4040 off)) s)

/-- R103. -/
def execCpuwCart4040 (off : BitVec 6) (v : Byte) (s : State) : Host.Outcome State Fault Refusal :=
  .next (writeCart (rowAddr (.cart4040 off)) v s)

/-- R96. -/
def execCpurCart4080 (off : BitVec 7) (s : State) : Host.Outcome State Fault Refusal :=
  .next (readCart (rowAddr (.cart4080 off)) s)

/-- R103. -/
def execCpuwCart4080 (off : BitVec 7) (v : Byte) (s : State) : Host.Outcome State Fault Refusal :=
  .next (writeCart (rowAddr (.cart4080 off)) v s)

/-- R96. -/
def execCpurCart4100 (off : BitVec 8) (s : State) : Host.Outcome State Fault Refusal :=
  .next (readCart (rowAddr (.cart4100 off)) s)

/-- R103. -/
def execCpuwCart4100 (off : BitVec 8) (v : Byte) (s : State) : Host.Outcome State Fault Refusal :=
  .next (writeCart (rowAddr (.cart4100 off)) v s)

/-- R96. -/
def execCpurCart4200 (off : BitVec 9) (s : State) : Host.Outcome State Fault Refusal :=
  .next (readCart (rowAddr (.cart4200 off)) s)

/-- R103. -/
def execCpuwCart4200 (off : BitVec 9) (v : Byte) (s : State) : Host.Outcome State Fault Refusal :=
  .next (writeCart (rowAddr (.cart4200 off)) v s)

/-- R96. -/
def execCpurCart4400 (off : BitVec 10) (s : State) : Host.Outcome State Fault Refusal :=
  .next (readCart (rowAddr (.cart4400 off)) s)

/-- R103. -/
def execCpuwCart4400 (off : BitVec 10) (v : Byte) (s : State) : Host.Outcome State Fault Refusal :=
  .next (writeCart (rowAddr (.cart4400 off)) v s)

/-- R96. -/
def execCpurCart4800 (off : BitVec 11) (s : State) : Host.Outcome State Fault Refusal :=
  .next (readCart (rowAddr (.cart4800 off)) s)

/-- R103. -/
def execCpuwCart4800 (off : BitVec 11) (v : Byte) (s : State) : Host.Outcome State Fault Refusal :=
  .next (writeCart (rowAddr (.cart4800 off)) v s)

/-- R96. -/
def execCpurCart5000 (off : BitVec 12) (s : State) : Host.Outcome State Fault Refusal :=
  .next (readCart (rowAddr (.cart5000 off)) s)

/-- R103. -/
def execCpuwCart5000 (off : BitVec 12) (v : Byte) (s : State) : Host.Outcome State Fault Refusal :=
  .next (writeCart (rowAddr (.cart5000 off)) v s)

/-- R96. -/
def execCpurCart6000 (off : BitVec 13) (s : State) : Host.Outcome State Fault Refusal :=
  .next (readCart (rowAddr (.cart6000 off)) s)

/-- R103. -/
def execCpuwCart6000 (off : BitVec 13) (v : Byte) (s : State) : Host.Outcome State Fault Refusal :=
  .next (writeCart (rowAddr (.cart6000 off)) v s)

/-- R96. -/
def execCpurCart8000 (off : BitVec 15) (s : State) : Host.Outcome State Fault Refusal :=
  .next (readCart (rowAddr (.cart8000 off)) s)

/-- R103. -/
def execCpuwCart8000 (off : BitVec 15) (v : Byte) (s : State) : Host.Outcome State Fault Refusal :=
  .next (writeCart (rowAddr (.cart8000 off)) v s)

end Sys2Proof.Machine
end

