-- ==== Sys2Proof/Machine/FrameChannel.lean ====
section
/-! DEFINITION. FPUB and FACQ (44_frame_channel.md): as one step, and begun for the step-level protocol. -/

namespace Sys2Proof.Machine

/-- FPUB (R160, R162): the handle names the frame (30_encoding.md R78); a second producer is refused (70_reset_and_hazards.md R242). -/
def execFpub (f : BitVec 24) (s : State) : Host.Outcome State Fault Refusal :=
  match frameOf s f with
  | none => .refused (.noSuchFrame f)
  | some F => if s.fprod.isSome then .refused (.secondUser .frameProducer) else .next (publish F s)

/-- FACQ (R161, R162). -/
def execFacq (s : State) : Host.Outcome State Fault Refusal :=
  if s.fcons.isSome then .refused (.secondUser .frameConsumer) else .next (acquire s)

/-- Begin an FPUB: its next step is P1 (R162). -/
def beginFpub (f : BitVec 24) (s : State) : Host.Outcome State Fault Refusal :=
  match frameOf s f with
  | none => .refused (.noSuchFrame f)
  | some F =>
    if s.fprod.isSome then .refused (.secondUser .frameProducer)
    else .next { s with fprod := some { frame := F, stage := .lock }, result := .none }

/-- Begin an FACQ: its next step is C1 (R162). -/
def beginFacq (s : State) : Host.Outcome State Fault Refusal :=
  if s.fcons.isSome then .refused (.secondUser .frameConsumer)
  else .next { s with fcons := some .lock, result := .none }

end Sys2Proof.Machine
end

