-- ==== Sys2Proof/Machine/InputLatch.lean ====
section
/-! DEFINITION. SNAP (41_input_latch.md R110).  The strobe write and the port reads are bus handlers, in Machine/Ops.lean. -/

namespace Sys2Proof.Machine

/-- SNAP (R110). -/
def execSnap (b : BitVec 16) (s : State) : Host.Outcome State Fault Refusal :=
  .next { s with snapshot := b, result := .none }

end Sys2Proof.Machine
end

