-- ==== Sys2Proof/Machine/IrqLine.lean ====
section
/-! DEFINITION. IRQA, IRQK and IRQV (43_irq_line.md). -/

namespace Sys2Proof.Machine

/-- IRQA (R145); `s >= IRQ_W` is illegal and refused. -/
def execIrqa (src : Byte) (s : State) : Host.Outcome State Fault Refusal :=
  if src.toNat < s.cfg.irqW then .next { s with irq := s.irq ||| irqBit src, result := .none }
  else .refused .illegalOperand

/-- IRQK (R146); `s >= IRQ_W` is illegal and refused. -/
def execIrqk (src : Byte) (s : State) : Host.Outcome State Fault Refusal :=
  if src.toNat < s.cfg.irqW then .next { s with irq := s.irq &&& ~~~irqBit src, result := .none }
  else .refused .illegalOperand

/-- IRQV (R147). -/
def execIrqv (s : State) : Host.Outcome State Fault Refusal := .next (giveResult (.mask s.irq) s)

end Sys2Proof.Machine
end

