-- ==== Sys2Proof/Machine/LightGun.lean ====
section
/-! DEFINITION. GUNDN, GUNUP and GUNTG (42_light_gun.md). -/

namespace Sys2Proof.Machine

/-- GUNDN (R130); `y >= 240` is illegal. -/
def execGundn (x y : Byte) (s : State) : Host.Outcome State Fault Refusal :=
  if y.toNat ≤ 239 then .next { s with gunX := x, gunY := y, trigger := true, result := .none }
  else .refused .illegalOperand

/-- GUNUP (R131): the trigger is released and the sensor takes the answer of one hit test, a free value. -/
def execGunup (s : State) : Host.Outcome State Fault Refusal :=
  .next { s with
    trigger := false
    lightSensed := Config.oracleBit s.draws
    calls := s.calls ++ [.checkTargetHit s.gunX s.gunY]
    draws := s.draws + 1
    result := .none }

/-- GUNTG (R132): the connection toggles, both shift registers clear, EC2 occurs. -/
def execGuntg (s : State) : Host.Outcome State Fault Refusal :=
  .next (raise .peripheralToggle
    { s with connected := !s.connected, shift1 := 0x00, shift2 := 0x00, result := .none })

end Sys2Proof.Machine
end

