-- ==== Sys2Proof/Machine/System.lean ====
section
/-! DEFINITION. RESET (70_reset_and_hazards.md R230) and STOP (60_exceptions.md R216). -/

namespace Sys2Proof.Machine

/-- RESET (R230). -/
def execReset (s : State) : Host.Outcome State Fault Refusal := .next (resetState s)

/-- STOP (R216). -/
def execStop (s : State) : Host.Outcome State Fault Refusal := .next { s with running := false, result := .none }

end Sys2Proof.Machine
end

