-- ==== Sys2Proof/Machine/Dispatch.lean ====
section
/-! DEFINITION. The meaning of every operation: one arm a constructor. -/

namespace Sys2Proof.Machine

def exec (i : Instr) (s : State) : Host.Outcome State Fault Refusal :=
  match i with
  | .cpur a => Sys2Proof.Machine.execCpur a s
  | .cpuw a v => Sys2Proof.Machine.execCpuw a v s
  | .ppur a => Sys2Proof.Machine.execPpur a s
  | .ppuw a v => Sys2Proof.Machine.execPpuw a v s
  | .snap b => Sys2Proof.Machine.execSnap b s
  | .gundn x y => Sys2Proof.Machine.execGundn x y s
  | .gunup => Sys2Proof.Machine.execGunup s
  | .guntg => Sys2Proof.Machine.execGuntg s
  | .irqa src => Sys2Proof.Machine.execIrqa src s
  | .irqk src => Sys2Proof.Machine.execIrqk src s
  | .irqv => Sys2Proof.Machine.execIrqv s
  | .fpub f => Sys2Proof.Machine.execFpub f s
  | .facq => Sys2Proof.Machine.execFacq s
  | .apush samples => Sys2Proof.Machine.execApush samples s
  | .apull n => Sys2Proof.Machine.execApull n s
  | .reset => Sys2Proof.Machine.execReset s
  | .stop => Sys2Proof.Machine.execStop s
  | .avail => Sys2Proof.Machine.execAvail s
  | .setnmi b => Sys2Proof.Machine.execSetnmi b s
  | .ppucfg k val => Sys2Proof.Machine.execPpucfg k val s
  | .cpurLow0000 off => Sys2Proof.Machine.execCpurLow0000 off s
  | .cpuwLow0000 off v => Sys2Proof.Machine.execCpuwLow0000 off v s
  | .cpurPpu2000 off => Sys2Proof.Machine.execCpurPpu2000 off s
  | .cpuwPpu2000 off v => Sys2Proof.Machine.execCpuwPpu2000 off v s
  | .cpurIo4000 off => Sys2Proof.Machine.execCpurIo4000 off s
  | .cpuwIo4000 off v => Sys2Proof.Machine.execCpuwIo4000 off v s
  | .cpurIo4010 off => Sys2Proof.Machine.execCpurIo4010 off s
  | .cpuwIo4010 off v => Sys2Proof.Machine.execCpuwIo4010 off v s
  | .cpurIo4014 off => Sys2Proof.Machine.execCpurIo4014 off s
  | .cpuwIo4014 off v => Sys2Proof.Machine.execCpuwIo4014 off v s
  | .cpurPort1 => Sys2Proof.Machine.execCpurPort1 s
  | .cpuwStrobe v => Sys2Proof.Machine.execCpuwStrobe v s
  | .cpurPort2 => Sys2Proof.Machine.execCpurPort2 s
  | .cpuwPort2 v => Sys2Proof.Machine.execCpuwPort2 v s
  | .cpurUnmapped4018 off => Sys2Proof.Machine.execCpurUnmapped4018 off s
  | .cpuwUnmapped4018 off v => Sys2Proof.Machine.execCpuwUnmapped4018 off v s
  | .cpurCart4020 off => Sys2Proof.Machine.execCpurCart4020 off s
  | .cpuwCart4020 off v => Sys2Proof.Machine.execCpuwCart4020 off v s
  | .cpurCart4040 off => Sys2Proof.Machine.execCpurCart4040 off s
  | .cpuwCart4040 off v => Sys2Proof.Machine.execCpuwCart4040 off v s
  | .cpurCart4080 off => Sys2Proof.Machine.execCpurCart4080 off s
  | .cpuwCart4080 off v => Sys2Proof.Machine.execCpuwCart4080 off v s
  | .cpurCart4100 off => Sys2Proof.Machine.execCpurCart4100 off s
  | .cpuwCart4100 off v => Sys2Proof.Machine.execCpuwCart4100 off v s
  | .cpurCart4200 off => Sys2Proof.Machine.execCpurCart4200 off s
  | .cpuwCart4200 off v => Sys2Proof.Machine.execCpuwCart4200 off v s
  | .cpurCart4400 off => Sys2Proof.Machine.execCpurCart4400 off s
  | .cpuwCart4400 off v => Sys2Proof.Machine.execCpuwCart4400 off v s
  | .cpurCart4800 off => Sys2Proof.Machine.execCpurCart4800 off s
  | .cpuwCart4800 off v => Sys2Proof.Machine.execCpuwCart4800 off v s
  | .cpurCart5000 off => Sys2Proof.Machine.execCpurCart5000 off s
  | .cpuwCart5000 off v => Sys2Proof.Machine.execCpuwCart5000 off v s
  | .cpurCart6000 off => Sys2Proof.Machine.execCpurCart6000 off s
  | .cpuwCart6000 off v => Sys2Proof.Machine.execCpuwCart6000 off v s
  | .cpurCart8000 off => Sys2Proof.Machine.execCpurCart8000 off s
  | .cpuwCart8000 off v => Sys2Proof.Machine.execCpuwCart8000 off v s

end Sys2Proof.Machine
end

