-- ==== Sys2Proof/Machine/Present.lean ====
section
/-! DEFINITION. Taking an entry from the inbox: decoding an operation, admitting its agent, beginning an operation that
runs step by step, and a loop's load of the running flag. -/

namespace Sys2Proof.Machine

/-- The entry before `rest` is taken: the run has begun. -/
def takeEntry (rest : List Event) (s : State) : State := { s with inbox := rest, started := true }

/-- The operation a presentation is, if it is one, its agent owns it, that agent's thread has not ended and has none in
progress, and a RESET comes before everything else (30_encoding.md R73, 60_exceptions.md R211, R216, 20_memory.md R54,
70_reset_and_hazards.md R230, R245). -/
def admitted (s : State) (agent : Agent) (what : Presented) : Except Refusal Instr :=
  match decode s.cfg what with
  | .error e => .error (.illegalWord e)
  | .ok i =>
    if owns agent i = false then .error (.notOwner agent)
    else if threadEnded s (threadOf agent) then .error (.threadEnded (threadOf agent))
    else if threadBusy s (threadOf agent) then .error (.threadBusy (threadOf agent))
    else if s.started = true ∧ channelUse i = .reset then .error .resetAfterStart
    else .ok i

/-- A loop loads the running flag, at the top of an iteration (20_memory.md R58, 60_exceptions.md R216).  That a load inside an
operation of its thread is refused is log entry 9, and that one after the loop has ended is refused log entry 22, both DEDUCED.  Which threads have a loop, the audio callback
not being one of them (91_not_in_source.md N28), is log entry 30, DEDUCED. -/
def poll (loop : Loop) (s : State) : Host.Outcome State Fault Refusal :=
  if threadEnded s (threadOfLoop loop) then .refused (.threadEnded (threadOfLoop loop))
  else if threadBusy s (threadOfLoop loop) then .refused (.threadBusy (threadOfLoop loop))
  else .next (pollRunning loop s)

/-- Begin an operation that has a step-level protocol (00_scope.md R5); none for one that is a single step. -/
def begins (i : Instr) (s : State) : Option (Host.Outcome State Fault Refusal) :=
  match channelUse i with
  | .publish f => some (beginFpub f s)
  | .acquire => some (beginFacq s)
  | .push samples => some (beginApush samples s)
  | .pull n => some (beginApull n s)
  | .reset => none
  | .none => none

/-- What an instruction placed from outside needs besides its word: an FPUB's handle names the all-zero frame where the
table has none (30_encoding.md R78), and a RESET comes before everything else of its run (70_reset_and_hazards.md R245). -/
def withNeedsOf (s : State) (i : Instr) : State :=
  match channelUse i with
  | .publish f => if (frameOf s f).isSome then s else { s with frames := (f.toNat, []) :: s.frames }
  | .reset => { s with started := false }
  | .acquire | .push _ | .pull _ | .none => s

/-- Who presents a form: the owner of the operation it is, and the Host where it is none. -/
def presenter (s : State) (what : Presented) : Agent :=
  match decode s.cfg what with
  | .ok i => owner i
  | .error _ => .host

/-- What a form needs. -/
def withNeedsFor (s : State) (what : Presented) : State :=
  match decode s.cfg what with
  | .ok i => withNeedsOf s i
  | .error _ => s

/-- Put an instruction, as its owner presents it, first in the inbox. -/
def placeFirst (s : State) (what : Presented) : State :=
  let t := withNeedsFor s what
  { t with inbox := .present (presenter s what) .atomic what :: t.inbox }

end Sys2Proof.Machine
end

