-- ==== Sys2Proof/Machine/Step.lean ====
section
/-! DEFINITION. One step: the first entry of the inbox takes effect (00_scope.md R7). -/

namespace Sys2Proof.Machine

/-- One step.  With nothing presented CORE does nothing: it fetches no program (10_state.md R26).  An admitted operation
takes effect, or is begun when it is to run step by step; the next protocol step of an operation in progress is taken; a
loop loads the running flag. -/
def step (s : State) : Host.Outcome State Fault Refusal :=
  match s.inbox with
  | [] => .next s
  | .advance side n :: rest => advance side n { s with inbox := rest }
  | .poll loop :: rest => poll loop (takeEntry rest s)
  | .present agent grain what :: rest =>
    match admitted s agent what with
    | .error r => .refused r
    | .ok i =>
      match grain with
      | .atomic => exec i (takeEntry rest s)
      | .stepwise =>
        match begins i (takeEntry rest s) with
        | some o => o
        | none => exec i (takeEntry rest s)

/-- `s` with the instruction of bits `w` presented next. -/
def State.withFetchWord (s : State) (nbits w : Nat) : State := placeFirst s (presentBits nbits w)

end Sys2Proof.Machine
end

