-- ==== Sys2Proof/Safety.lean ====
section
/-! DEFINITION. What the spec promises of every state (the invariants of 10_state.md R14, R18, R30, R31 and
44_frame_channel.md R162, the canonical form of the memories), and the terms claims are stated in: illegal words, runs of
operations, the frame and the sample queue the two channels stand for, the conditions an operation raises. -/

namespace Sys2Proof.Machine

/-- `gun.y` never exceeds 239 (10_state.md R14). -/
def gunOk (s : State) : Prop := s.gunY.toNat ≤ 239

/-- The mask has `IRQ_W` bits (10_state.md R18). -/
def irqOk (s : State) : Prop := s.irq.toNat < 2 ^ s.cfg.irqW

/-- The operation in progress holds canonical frames. -/
def publishWf : Option Publish → Prop
  | none => True
  | some pub => Memory.wf Config.frameWords pub.frame = true

def acquireWf : Option Acquire → Prop
  | none => True
  | some .lock => True
  | some (.copy out _) => Memory.wf Config.frameWords out = true
  | some (.release out) => Memory.wf Config.frameWords out = true

/-- Every memory, and every frame of the table, is in canonical form. -/
def memoriesOk (s : State) : Prop :=
  Memory.wf Config.frameWords s.slot = true ∧ Memory.wf s.cfg.ringCap s.buf = true ∧
    (∀ c ∈ s.frames, Memory.wf Config.frameWords c.2 = true) ∧ publishWf s.fprod ∧ acquireWf s.fcons

/-- The producer is past P1, so it holds the lock (R162). -/
def publishHolds : Option Publish → Bool
  | none => false
  | some pub =>
    match pub.stage with
    | .lock => false
    | .copy _ => true
    | .release => true

/-- The consumer is past C1, so it holds the lock (R162). -/
def acquireHolds : Option Acquire → Bool
  | none => false
  | some .lock => false
  | some (.copy _ _) => true
  | some (.release _) => true

/-- `flock` says who is inside the critical section (10_state.md R20, R162). -/
def lockOk (s : State) : Prop :=
  (s.flock = .heldP ↔ publishHolds s.fprod = true) ∧ (s.flock = .heldC ↔ acquireHolds s.fcons = true)

/-- What the producer has copied stands in the slot (R162 P2). -/
def publishCopied (slot : Frame) : Option Publish → Prop
  | none => True
  | some pub =>
    match pub.stage with
    | .lock => True
    | .copy next => ∀ i, i < next → Memory.read slot i = Memory.read pub.frame i
    | .release => ∀ i, i < Config.frameWords → Memory.read slot i = Memory.read pub.frame i

/-- What the consumer has copied is what stands in the slot (R162 C2). -/
def acquireCopied (slot : Frame) : Option Acquire → Prop
  | none => True
  | some .lock => True
  | some (.copy out next) => ∀ i, i < next → Memory.read out i = Memory.read slot i
  | some (.release out) => ∀ i, i < Config.frameWords → Memory.read out i = Memory.read slot i

/-- No tearing, step by step: the lock discipline and both copies agree with the slot (10_state.md R30, R163). -/
def untorn (s : State) : Prop := lockOk s ∧ publishCopied s.slot s.fprod ∧ acquireCopied s.slot s.fcons

/-- The samples in the ring (45_audio_ring.md R177). -/
def availNow (s : State) : Nat := availOf s.cfg s.wr s.rd

/-- What an APUSH in progress has claimed fits the free space (45_audio_ring.md R178). -/
def pushClaim (s : State) : Option Push → Prop
  | none => True
  | some push =>
    match push.stage with
    | .claim => True
    | .store w k next => w = s.wr ∧ next ≤ k ∧ k ≤ push.samples.length ∧ availNow s + k ≤ s.cfg.ringCap
    | .publish w k => w = s.wr ∧ k ≤ push.samples.length ∧ availNow s + k ≤ s.cfg.ringCap

/-- What an APULL in progress has claimed is available (45_audio_ring.md R179). -/
def pullClaim (s : State) : Option Pull → Prop
  | none => True
  | some pull =>
    match pull.stage with
    | .claim => True
    | .copy r ok _ => r = s.rd ∧ (ok = true → pull.count ≤ availNow s)
    | .free r ok _ => r = s.rd ∧ (ok = true → pull.count ≤ availNow s)

/-- Neither cursor overtakes the other by more than the capacity (10_state.md R31). -/
def cursorsOk (s : State) : Prop :=
  s.wr < s.cfg.modulus ∧ s.rd < s.cfg.modulus ∧ availNow s ≤ s.cfg.ringCap ∧ pushClaim s s.aprod ∧ pullClaim s s.acons

/-- The emulation thread runs at most one operation at a time (20_memory.md R54). -/
def emulationSingle (s : State) : Prop := ¬(s.fprod.isSome = true ∧ s.aprod.isSome = true)

/-- A run with an operation in progress, or a loop that has observed the flag, has begun (70_reset_and_hazards.md R230, R231). -/
def startedOk (s : State) : Prop :=
  s.started = false → s.fprod = none ∧ s.fcons = none ∧ s.aprod = none ∧ s.acons = none ∧ s.emulationEnded = false ∧
    s.presentationEnded = false

/-- A loop has ended only where the flag is clear, and its thread has no operation in progress then or later
(60_exceptions.md R216, 20_memory.md R58). -/
def endedOk (s : State) : Prop :=
  (s.emulationEnded = true → s.running = false ∧ s.fprod = none ∧ s.aprod = none) ∧
    (s.presentationEnded = true → s.running = false ∧ s.fcons = none)

/-- Everything the spec promises of a state. -/
def safe (s : State) : Prop :=
  s.cfg.wf = true ∧ gunOk s ∧ irqOk s ∧ memoriesOk s ∧ untorn s ∧ cursorsOk s ∧ emulationSingle s ∧ startedOk s ∧ endedOk s

/-- The samples the ring holds, oldest first (45_audio_ring.md R176, R180). -/
def ringContents (s : State) : List Sample := loadRun s.cfg.ringCap s.buf s.rd (availNow s)

/-- The end of a run: every loop has observed `running = 0`, every operation in progress has completed, and the lock is
free (60_exceptions.md R217). -/
def runEnded (s : State) : Prop :=
  (∀ loop, threadEnded s (threadOfLoop loop) = true) ∧ s.fprod = none ∧ s.fcons = none ∧ s.aprod = none ∧ s.acons = none ∧ s.flock = .free

/-! Fair runs (70_reset_and_hazards.md R252, 44_frame_channel.md R164). -/

/-- The end has an operation in progress whose next step is enabled: every step is, but P1 and C1 of the frame protocol
while the lock is held (44_frame_channel.md R162, 45_audio_ring.md R181). -/
def sideEnabled (s : State) : Side → Bool
  | .frameProducer =>
    match s.fprod with
    | none => false
    | some pub => decide (pub.stage ≠ .lock) || decide (s.flock = .free)
  | .frameConsumer =>
    match s.fcons with
    | none => false
    | some acq => decide (acq ≠ .lock) || decide (s.flock = .free)
  | .audioProducer => s.aprod.isSome
  | .audioConsumer => s.acons.isSome

/-- The thread has an enabled step: the next step of its operation in progress, and between operations whatever its loop
does next.  Nothing is asked of a thread without a loop while it runs nothing: its driver decides when it acts. -/
def threadEnabled (s : State) (th : Thread) : Prop :=
  (∃ side, threadOfSide side = th ∧ sideEnabled s side = true) ∨
    (threadBusy s th = false ∧ threadEnded s th = false ∧ ∃ loop, threadOfLoop loop = th)

/-- The end's operation in progress moves on from `s` to `t`. -/
def movesOn (s t : State) : Side → Prop
  | .frameProducer => t.fprod ≠ s.fprod
  | .frameConsumer => t.fcons ≠ s.fcons
  | .audioProducer => t.aprod ≠ s.aprod
  | .audioConsumer => t.acons ≠ s.acons

/-- The entry is a step of the thread: one that names an end with no enabled step, or copies none of what is left to copy,
is none. -/
def stepOf (s : State) (th : Thread) (e : Event) : Prop :=
  match e with
  | .present agent _ _ => threadOf agent = th
  | .advance side n => threadOfSide side = th ∧ ∃ t, advance side n s = .next t ∧ movesOn s t side
  | .poll loop => threadOfLoop loop = th

/-- An infinite run under a schedule: entry `k` is the one taken in state `k`. -/
def runsUnder (schedule : Nat → Event) (states : Nat → State) : Prop :=
  ∀ k, step { states k with inbox := [schedule k] } = .next (states (k + 1))

/-- Weak fairness: a thread with an enabled step eventually takes one (70_reset_and_hazards.md R252). -/
def weaklyFair (schedule : Nat → Event) (states : Nat → State) : Prop :=
  ∀ (th : Thread) (k : Nat), (∀ j, k ≤ j → threadEnabled (states j) th) → ∃ j, k ≤ j ∧ stepOf (states j) th (schedule j)

/-! Illegal words. -/

/-- A field an operation requires to be zero is not (30_encoding.md R71). -/
def unusedFieldSet (w : Word) : Prop :=
  ((opcOf w = 0x0 ∨ opcOf w = 0x2 ∨ opcOf w = 0x4 ∨ opcOf w = 0x5) ∧ opdLo8 (opdOf w) ≠ 0) ∨
    ((opcOf w = 0x6 ∨ opcOf w = 0x7 ∨ opcOf w = 0xA ∨ opcOf w = 0xC) ∧ opdOf w ≠ 0) ∨
    ((opcOf w = 0x8 ∨ opcOf w = 0x9) ∧ opdHi16 (opdOf w) ≠ 0) ∨
    (opcOf w = 0xF ∧ (opdLo8 (opdOf w)).toNat ≤ 2 ∧ opdHi16 (opdOf w) ≠ 0) ∨
    (opcOf w = 0xF ∧ opdLo8 (opdOf w) = 3 ∧ 1 < (opdHi16 (opdOf w)).toNat) ∨
    (opcOf w = 0xF ∧ opdLo8 (opdOf w) = 4 ∧ argGap (opdHi16 (opdOf w)) ≠ 0)

/-- The payload is not what the word asks for (30_encoding.md R73, R78): `ceil(n / 2)` words after an APUSH, the high half
of the last one zero where `n` is odd; none after any other word. -/
def payloadWrong (w : Word) (payload : List Word) : Prop :=
  (opcOf w ≠ 0xD ∧ payload ≠ []) ∨
    (opcOf w = 0xD ∧ payload.length ≠ ((opdOf w).toNat + 1) / 2) ∨
    (opcOf w = 0xD ∧ (opdOf w).toNat % 2 = 1 ∧ ∃ last, payload.getLast? = some last ∧ 2 ^ 16 ≤ last.toNat)

/-- A word with its payload is illegal: the list of 30_encoding.md R73. -/
def illegalWord (p : Params) (w : Word) (payload : List Word) : Prop :=
  mbzOf w ≠ 0 ∨ unusedFieldSet w ∨ (opcOf w = 0xF ∧ 5 ≤ (opdLo8 (opdOf w)).toNat) ∨
    (opcOf w = 0xF ∧ opdLo8 (opdOf w) = 4 ∧ 5 ≤ (argK (opdHi16 (opdOf w))).toNat) ∨
    (opcOf w = 0x5 ∧ 239 < (opdMid8 (opdOf w)).toNat) ∨
    ((opcOf w = 0x8 ∨ opcOf w = 0x9) ∧ p.irqW ≤ (opdLo8 (opdOf w)).toNat) ∨ payloadWrong w payload

/-- The (match, mask) pairs of the address decode (30_encoding.md R74), in its order. -/
def addressTable : List (Addr × Addr) :=
  [(0x0000, 0xE000), (0x2000, 0xE000), (0x4000, 0xFFF0), (0x4010, 0xFFFC), (0x4014, 0xFFFE), (0x4016, 0xFFFF)] ++
    [(0x4017, 0xFFFF), (0x4018, 0xFFF8), (0x4020, 0xFFE0), (0x4040, 0xFFC0), (0x4080, 0xFF80), (0x4100, 0xFF00)] ++
    [(0x4200, 0xFE00), (0x4400, 0xFC00), (0x4800, 0xF800), (0x5000, 0xF000), (0x6000, 0xE000), (0x8000, 0x8000)]

/-! Runs. -/

/-- Operations taken one after another, with what each returned; none where one does not complete. -/
def runOps : List Instr → State → Option (State × List Result)
  | [], s => some (s, [])
  | i :: ops, s =>
    match exec i s with
    | .next t =>
      match runOps ops t with
      | some (u, rs) => some (u, t.result :: rs)
      | none => none
    | .fault _ => none
    | .refused _ => none

/-- `i` makes one collaborator call, returns its answer and changes nothing else (20_memory.md R51). -/
def readsThrough (i : Instr) (c : Call) (s : State) : Prop :=
  exec i s = .next { s with
    calls := s.calls ++ [c], result := .byte (Config.oracleByte s.draws), draws := s.draws + 1 }

/-- `i` makes one collaborator call that returns nothing, and changes nothing else (20_memory.md R51). -/
def callsOnce (i : Instr) (c : Call) (s : State) : Prop :=
  exec i s = .next { s with calls := s.calls ++ [c], result := .none }

/-- The byte of a serial port read whose data bit is `b` (30_encoding.md R75(b)). -/
def serialByte (b : Bool) : Byte := if b then 0x41 else 0x40

/-- The state without the model's own record of what was presented, called, raised and returned. -/
def coreOf (s : State) : State :=
  { s with frames := [], inbox := [], calls := [], raised := [], result := .none, draws := 0 }

/-- `i` is a write to the strobe register (40_bus.md R102). -/
def strobeWrite (s : State) (i : Instr) : Prop :=
  (∃ v, i = .cpuw s.cfg.map.strobeAddr v) ∨ ∃ v, i = .cpuwStrobe v

/-- `i` is a read of port 1 (40_bus.md R94). -/
def port1Read (s : State) (i : Instr) : Prop := i = .cpur s.cfg.map.port1Addr ∨ i = .cpurPort1

/-- `i` is a read of port 2 (40_bus.md R95). -/
def port2Read (s : State) (i : Instr) : Prop := i = .cpur s.cfg.map.port2Addr ∨ i = .cpurPort2

/-- The two states differ at most in shift registers that the next use reloads or nothing reads (10_state.md R28,
42_light_gun.md R134). -/
def sameButReloaded (s t : State) : Prop :=
  t = { s with shift1 := t.shift1, shift2 := t.shift2 } ∧ (s.strobe = false → t.shift1 = s.shift1) ∧
    (s.strobe = false → s.connected = false → t.shift2 = s.shift2)

/-- The two outcomes are the same, up to such shift registers. -/
def sameOutcome : Host.Outcome State Fault Refusal → Host.Outcome State Fault Refusal → Prop
  | .next s, .next t => sameButReloaded s t
  | .refused r, .refused q => r = q
  | _, _ => False

/-! The frame the channel stands for (44_frame_channel.md R160 to R163). -/

/-- The frame an FPUB in progress publishes. -/
def publishing (s : State) : Option Frame :=
  match s.fprod with
  | none => none
  | some pub => some pub.frame

/-- The next step is the producer's release of the lock (44_frame_channel.md R162 P3). -/
def advanceReleases (s : State) : Bool :=
  match s.inbox, s.fprod with
  | .advance .frameProducer _ :: _, some pub => decide (pub.stage = .release)
  | _, _ => false

/-- The frame last published, once the step `s` is about to take is taken, if `g` was it before: a whole FPUB publishes
its frame, a stepwise one when it releases the lock, and RESET leaves the all-zero frame. -/
def publishedAfter (s : State) (g : Frame) : Frame :=
  match s.inbox with
  | [] => g
  | .poll _ :: _ => g
  | .advance _ _ :: _ => if advanceReleases s then (publishing s).getD g else g
  | .present agent grain what :: _ =>
    match admitted s agent what with
    | .error _ => g
    | .ok i =>
      match channelUse i with
      | .reset => []
      | .publish f => if grain = .atomic ∧ s.flock = .free then (frameOf s f).getD g else g
      | .acquire | .push _ | .pull _ | .none => g

/-- Outside a publication the slot holds the frame last published, in every pixel (10_state.md R30). -/
def slotHolds (s : State) (g : Frame) : Prop :=
  publishHolds s.fprod = false → ∀ i, i < Config.frameWords → Memory.read s.slot i = Memory.read g i

/-! The queue the ring stands for (45_audio_ring.md R175 to R180). -/

/-- What an APUSH in progress has stored stands in its slots (R178 P2). -/
def pushStored (s : State) : Prop :=
  match s.aprod with
  | none => True
  | some push =>
    match push.stage with
    | .claim => True
    | .store w _ next => ∀ i, i < next → Memory.read s.buf ((w + i) % s.cfg.ringCap) = push.samples.getD i 0
    | .publish w k => ∀ i, i < k → Memory.read s.buf ((w + i) % s.cfg.ringCap) = push.samples.getD i 0

/-- The samples an APULL of `n` in progress has so far: the oldest of the ring, or silence (R179 C2). -/
def pulledSoFar (s : State) (ok : Bool) (out : List Sample) : Prop :=
  out = if ok then (ringContents s).take out.length else List.replicate out.length 0

/-- What an APULL in progress has copied is what the ring holds, or silence. -/
def pullCopied (s : State) : Prop :=
  match s.acons with
  | none => True
  | some pull =>
    match pull.stage with
    | .claim => True
    | .copy _ ok out => out.length ≤ pull.count ∧ pulledSoFar s ok out
    | .free _ ok out => out.length = pull.count ∧ pulledSoFar s ok out

/-- The invariant of the ring while both ends run step by step, under the policy the spec chose (D21). -/
def ringOk (s : State) : Prop :=
  s.cfg.wf = true ∧ s.cfg.overrun = .dropNewest ∧ Memory.wf s.cfg.ringCap s.buf = true ∧ cursorsOk s ∧ pushStored s ∧
    pullCopied s

/-- The samples an audio step in progress adds to the ring: those a push has stored, when it publishes its cursor
(R178 P3). -/
def pushStepAdds (s : State) : List Sample :=
  match s.aprod with
  | none => []
  | some push =>
    match push.stage with
    | .claim => []
    | .store _ _ _ => []
    | .publish _ k => push.samples.take k

/-- How many samples an audio step in progress removes from the ring: those a pull has copied, when it frees their slots
(R179 C3). -/
def pullStepRemoves (s : State) : Nat :=
  match s.acons with
  | none => 0
  | some pull =>
    match pull.stage with
    | .claim => 0
    | .copy _ _ _ => 0
    | .free _ ok _ => if ok then pull.count else 0

/-- The samples in the ring once the step `s` is about to take is taken: a push adds the samples it accepts, a pull
removes those it returns, a stepwise one when it publishes its cursor, and RESET empties the ring. -/
def queueAfter (s : State) : List Sample :=
  match s.inbox with
  | [] => ringContents s
  | .poll _ :: _ => ringContents s
  | .advance side _ :: _ =>
    match side with
    | .audioProducer => ringContents s ++ pushStepAdds s
    | .audioConsumer => (ringContents s).drop (pullStepRemoves s)
    | .frameProducer | .frameConsumer => ringContents s
  | .present agent grain what :: _ =>
    match admitted s agent what with
    | .error _ => ringContents s
    | .ok i =>
      match channelUse i with
      | .reset => []
      | .push xs =>
        if grain = .atomic then ringContents s ++ xs.take (s.cfg.ringCap - availNow s) else ringContents s
      | .pull n => if grain = .atomic ∧ n ≤ availNow s then (ringContents s).drop n else ringContents s
      | .publish _ | .acquire | .none => ringContents s

/-- What a pull of `n` samples that may (`ok`) take them from the ring returns: the `n` oldest, or silence (R176). -/
def pulled (s : State) (ok : Bool) (n : Nat) : List Sample :=
  if ok then (ringContents s).take n else List.replicate n 0

/-- The samples the step `s` is about to take returns, where it completes an APULL (R176, R179 C3). -/
def samplesAfter (s : State) : Option (List Sample) :=
  match s.inbox with
  | [] => none
  | .poll _ :: _ => none
  | .advance side _ :: _ =>
    match side with
    | .audioConsumer =>
      match s.acons with
      | none => none
      | some pull =>
        match pull.stage with
        | .claim => none
        | .copy _ _ _ => none
        | .free _ ok _ => some (pulled s ok pull.count)
    | .audioProducer | .frameProducer | .frameConsumer => none
  | .present agent grain what :: _ =>
    match admitted s agent what with
    | .error _ => none
    | .ok i =>
      match channelUse i with
      | .pull n => if grain = .atomic then some (pulled s (decide (n ≤ availNow s)) n) else none
      | .publish _ | .acquire | .push _ | .reset | .none => none

/-! Conditions and completion (60_exceptions.md R200 to R205). -/

/-- A CPU-side address with no handler (R201). -/
def unmappedAt (s : State) (a : Addr) : Bool :=
  decide (region s.cfg.map a = .unmapped) || (decide (region s.cfg.map a = .low) && decide (s.cfg.lowMode = .unmapped))

/-- The conditions an operation raises (the table of R200): none, or one.  The number EC4 carries is R204's under
drop-newest, and under OverwriteOldest the model's choice (log entry 15). -/
def conditionsOf (i : Instr) (s : State) : List Condition :=
  match i with
  | .cpur a => if unmappedAt s a then [.unmappedRead a] else []
  | .cpuw a _ => if unmappedAt s a then [.unmappedWrite a] else []
  | .cpurLow0000 off => if s.cfg.lowMode = .unmapped then [.unmappedRead (off.setWidth 16)] else []
  | .cpuwLow0000 off _ => if s.cfg.lowMode = .unmapped then [.unmappedWrite (off.setWidth 16)] else []
  | .cpurUnmapped4018 off => [.unmappedRead (0x4018#16 + off.setWidth 16)]
  | .cpuwUnmapped4018 off _ => [.unmappedWrite (0x4018#16 + off.setWidth 16)]
  | .guntg => [.peripheralToggle]
  | .apull n => if availNow s < n then [.audioUnderrun n (availNow s)] else []
  | .apush xs =>
    if s.cfg.ringCap - availNow s < xs.length then [.audioOverrun (xs.length - (s.cfg.ringCap - availNow s))] else []
  | .ppur _ | .ppuw _ _ | .setnmi _ | .snap _ | .gundn _ _ | .gunup | .irqa _ | .irqk _ | .irqv | .fpub _ | .facq
  | .avail | .reset | .stop | .ppucfg _ _
  | .cpurPpu2000 _ | .cpuwPpu2000 _ _ | .cpurIo4000 _ | .cpuwIo4000 _ _
  | .cpurIo4010 _ | .cpuwIo4010 _ _ | .cpurIo4014 _ | .cpuwIo4014 _ _ | .cpurPort1 | .cpuwStrobe _ | .cpurPort2
  | .cpuwPort2 _ | .cpurCart4020 _ | .cpuwCart4020 _ _
  | .cpurCart4040 _ | .cpuwCart4040 _ _ | .cpurCart4080 _ | .cpuwCart4080 _ _ | .cpurCart4100 _ | .cpuwCart4100 _ _
  | .cpurCart4200 _ | .cpuwCart4200 _ _ | .cpurCart4400 _ | .cpuwCart4400 _ _ | .cpurCart4800 _ | .cpuwCart4800 _ _
  | .cpurCart5000 _ | .cpuwCart5000 _ _ | .cpurCart6000 _ | .cpuwCart6000 _ _ | .cpurCart8000 _ | .cpuwCart8000 _ _ =>
    []

/-- What an operation needs, beyond being well-formed, to complete in its step: a frame of the table, no operation of its
own end in progress, and for FPUB and FACQ the lock free (30_encoding.md R78, 70_reset_and_hazards.md R242,
44_frame_channel.md R162). -/
def canRun (i : Instr) (s : State) : Prop :=
  match channelUse i with
  | .publish f => (frameOf s f).isSome = true ∧ s.fprod = none ∧ s.flock = .free
  | .acquire => s.fcons = none ∧ s.flock = .free
  | .push _ => s.aprod = none
  | .pull _ => s.acons = none
  | .reset | .none => True

/-- The result column of 30_encoding.md R71. -/
def resultKind (i : Instr) (r : Result) : Prop :=
  match i with
  | .cpur _ | .ppur _ | .cpurLow0000 _ | .cpurPpu2000 _ | .cpurIo4000 _ | .cpurIo4010 _ | .cpurIo4014 _ | .cpurPort1
  | .cpurPort2 | .cpurUnmapped4018 _ | .cpurCart4020 _ | .cpurCart4040 _ | .cpurCart4080 _ | .cpurCart4100 _
  | .cpurCart4200 _ | .cpurCart4400 _ | .cpurCart4800 _ | .cpurCart5000 _ | .cpurCart6000 _ | .cpurCart8000 _ =>
    ∃ b, r = .byte b
  | .irqv => ∃ m, r = .mask m
  | .facq => ∃ F, r = .frame F
  | .apull n => ∃ l, r = .samples l ∧ l.length = n
  | .avail => ∃ n, r = .count n
  | .cpuw _ _ | .ppuw _ _ | .snap _ | .gundn _ _ | .gunup | .guntg | .irqa _ | .irqk _ | .fpub _ | .apush _ | .reset
  | .stop | .setnmi _ | .ppucfg _ _ | .cpuwLow0000 _ _ | .cpuwPpu2000 _ _ | .cpuwIo4000 _ _ | .cpuwIo4010 _ _
  | .cpuwIo4014 _ _ | .cpuwStrobe _ | .cpuwPort2 _ | .cpuwUnmapped4018 _ _ | .cpuwCart4020 _ _ | .cpuwCart4040 _ _
  | .cpuwCart4080 _ _ | .cpuwCart4100 _ _ | .cpuwCart4200 _ _ | .cpuwCart4400 _ _ | .cpuwCart4800 _ _
  | .cpuwCart5000 _ _ | .cpuwCart6000 _ _ | .cpuwCart8000 _ _ => r = .none

end Sys2Proof.Machine
end

