-- ==== Sys2Proof/Certificates/Slice0/Obligations.lean ====
section
/-! DEFINITION. The statements for the provers, each over every state that meets its hypotheses.  A rule is one of spec/.
Where a rule rests on a decision of the spec or on a choice of the model, the docstring says so. -/

open Sys2Proof Sys2Proof.Machine

/-! Encoding (30_encoding.md). -/

/-- Decoding what encodes a well-formed operation gives it back: no bit of a field is dropped (R70, R71, R74, R78). -/
def Obligations.DecodeOfEncode : Prop :=
  ∀ (p : Params) (i : Instr), i.wf p = true → decode p (encode i) = .ok i

/-- A word that decodes has one meaning: it decodes to a well-formed operation whose encoding is that word with that
payload; so does an address under the default map (R70, R71, R73, R74, R78). -/
def Obligations.EncodeOfDecode : Prop :=
  ∀ (p : Params) (what : Presented) (i : Instr), decode p what = .ok i →
    i.wf p = true ∧ ((∃ ws, what = .words ws) ∨ p.map = AddrMap.default → encode i = what)

/-- The words refused are exactly those R73 lists and, by inference from R78, which gives a payload to APUSH alone, a word of
another operation with payload words after it; whoever presents them. -/
def Obligations.IllegalWordsAreRefused : Prop :=
  ∀ (s : State) (agent : Agent) (grain : Grain) (w : Word) (payload : List Word) (rest : List Event),
    s.inbox = .present agent grain (.words (w :: payload)) :: rest →
      ((∃ e, step s = .refused (.illegalWord e)) ↔ illegalWord s.cfg w payload)

/-- Of the eighteen (match, mask) pairs of R74 every address matches exactly one, that of its row. -/
def Obligations.AddressRowsPartition : Prop :=
  ∀ a : Addr, addressTable.filter (fun m => decide (a &&& m.2 = m.1)) = [rowMatchMask (rowOf a)] ∧ rowAddr (rowOf a) = a

/-- Words the spec writes out for its operations decode to them (the examples of 40_bus.md to 60_exceptions.md; AVAIL's is
45_audio_ring.md R177).  The last two clauses are no words of the spec: they are bus calls under the default map, which
R74 decodes; the map is log entry 2 (PRESUMED) and the form of a call log entry 11 (DESIGN CHOICE). -/
def Obligations.SpecWordsDecode : Prop :=
  decode Params.default (.words [0x00401800]) = .ok (.cpur 0x4018) ∧
    decode Params.default (.words [0x10401601]) = .ok (.cpuw 0x4016 0x01) ∧
    decode Params.default (.words [0x20200000]) = .ok (.ppur 0x2000) ∧
    decode Params.default (.words [0x3023C055]) = .ok (.ppuw 0x23C0 0x55) ∧
    decode Params.default (.words [0x40000100]) = .ok (.snap 0x0001) ∧
    decode Params.default (.words [0x50643200]) = .ok (.gundn 100 50) ∧
    decode Params.default (.words [0x80000002]) = .ok (.irqa 2) ∧
    decode Params.default (.words [0xB0000001]) = .ok (.fpub 1) ∧
    decode Params.default (.words [0xF0000002]) = .ok .avail ∧
    decode Params.default (.words [0xF0000103]) = .ok (.setnmi true) ∧
    decode Params.default (.words [0xF0000804]) = .ok (.ppucfg .setIrqLatch 0x08) ∧
    decode Params.default (.busRead 0x4016) = .ok .cpurPort1 ∧
    decode Params.default (.busWrite 0x4016 0x01) = .ok (.cpuwStrobe 0x01)

/-! One step (00_scope.md R5, R7; 20_memory.md R54; 60_exceptions.md R211). -/

/-- A step whose entry is an operation of its owner, whose thread has not ended and has none in progress, is that operation
on the state with the entry taken; a RESET is one where no entry was taken before.  An operation without a step-level
protocol is one step however it is presented. -/
def Obligations.StepRunsAdmittedOperation : Prop :=
  ∀ (s : State) (agent : Agent) (grain : Grain) (what : Presented) (rest : List Event) (i : Instr),
    s.inbox = .present agent grain what :: rest → decode s.cfg what = .ok i → owns agent i = true →
      threadEnded s (threadOf agent) = false → threadBusy s (threadOf agent) = false →
        (i = .reset → s.started = false) → (grain = .atomic ∨ channelUse i = .none ∨ channelUse i = .reset) →
          step s = exec i { s with inbox := rest, started := true }

/-- FPUB, FACQ, APUSH and APULL presented to run step by step are begun: recorded as in progress at their first step,
nothing else of CORE changed (44_frame_channel.md R162, 45_audio_ring.md R178, R179). -/
def Obligations.StepBeginsProtocol : Prop :=
  ∀ (s : State) (agent : Agent) (what : Presented) (rest : List Event) (i : Instr),
    s.inbox = .present agent .stepwise what :: rest → admitted s agent what = .ok i →
      (∀ f F, i = .fpub f → frameOf s f = some F → s.fprod = none →
        step s = .next { s with
          inbox := rest, started := true, fprod := some { frame := F, stage := .lock }, result := .none }) ∧
      (i = .facq → s.fcons = none →
        step s = .next { s with inbox := rest, started := true, fcons := some .lock, result := .none }) ∧
      (∀ xs, i = .apush xs → s.aprod = none →
        step s = .next { s with
          inbox := rest, started := true, aprod := some { samples := xs, stage := .claim }, result := .none }) ∧
      (∀ n, i = .apull n → s.acons = none →
        step s = .next { s with
          inbox := rest, started := true, acons := some { count := n, stage := .claim }, result := .none })

/-- The other entries: the next protocol step of an end; a loop's load of the running flag at the top of an iteration
(20_memory.md R58, 60_exceptions.md R216; that the two loops alone load it is log entry 30, DEDUCED).  R58 says only that the
load is never inside a blocking call, and R216 only that a loop which has observed 0 presents no further operations: that a
load inside any operation of its thread is refused is log entry 9, DEDUCED, and that one after the loop has observed 0 is
refused is log entry 22, DEDUCED.  That with nothing presented a step
answers the same state is the model's choice: log entry 20, DESIGN CHOICE. -/
def Obligations.StepTakesOtherEntries : Prop :=
  ∀ s : State,
    (∀ side n rest, s.inbox = .advance side n :: rest → step s = advance side n { s with inbox := rest }) ∧
      (∀ rest, s.inbox = .poll .emulation :: rest → s.emulationEnded = false → s.fprod = none → s.aprod = none →
        step s = .next { s with
          inbox := rest, started := true, emulationEnded := !s.running, result := .flag s.running }) ∧
      (∀ rest, s.inbox = .poll .presentation :: rest → s.presentationEnded = false → s.fcons = none →
        step s = .next { s with
          inbox := rest, started := true, presentationEnded := !s.running, result := .flag s.running }) ∧
      (∀ loop rest, s.inbox = .poll loop :: rest →
        (threadEnded s (threadOfLoop loop) = true → step s = .refused (.threadEnded (threadOfLoop loop))) ∧
          (threadEnded s (threadOfLoop loop) = false → threadBusy s (threadOfLoop loop) = true →
            step s = .refused (.threadBusy (threadOfLoop loop)))) ∧
      (s.inbox = [] → step s = .next s)

/-- An operation of an agent that does not own it is refused (60_exceptions.md R211).  So is one of a thread whose loop has
observed the flag clear, which presents no further operations (R216; the refusal is log entry 22, DEDUCED); one of a thread
whose operation in progress has not completed (log entry 9, DEDUCED from 00_scope.md R7 and 20_memory.md R54, which say that
each is complete before the next begins); and a RESET after any other entry of the run (70_reset_and_hazards.md R245, U12;
log entry 16). -/
def Obligations.ForeignAndBusyAgentsRefused : Prop :=
  ∀ (s : State) (agent : Agent) (grain : Grain) (what : Presented) (rest : List Event) (i : Instr),
    s.inbox = .present agent grain what :: rest → decode s.cfg what = .ok i →
      (owns agent i = false → step s = .refused (.notOwner agent)) ∧
        (owns agent i = true → threadEnded s (threadOf agent) = true →
          step s = .refused (.threadEnded (threadOf agent))) ∧
        (owns agent i = true → threadEnded s (threadOf agent) = false → threadBusy s (threadOf agent) = true →
          step s = .refused (.threadBusy (threadOf agent))) ∧
        (agent = .host → i = .reset → s.started = true → step s = .refused .resetAfterStart)

/-- Who may present each operation: the table of R211, with the agents of 00_scope.md R6. -/
def Obligations.OperationsBelongToTheirAgents : Prop :=
  ∀ agent : Agent,
    (∀ a, owns agent (.cpur a) = true ↔ agent = .cpuMaster) ∧
      (∀ a v, owns agent (.cpuw a v) = true ↔ agent = .cpuMaster) ∧
      (∀ r, owns agent (rowRead r) = true ↔ agent = .cpuMaster) ∧
      (∀ r v, owns agent (rowWrite r v) = true ↔ agent = .cpuMaster) ∧
      (∀ a, owns agent (.ppur a) = true ↔ agent = .ppuMaster) ∧
      (∀ a v, owns agent (.ppuw a v) = true ↔ agent = .ppuMaster) ∧
      (∀ b, owns agent (.setnmi b) = true ↔ agent = .ppuMaster) ∧
      (∀ k v, owns agent (.ppucfg k v) = true ↔ agent = .cartCfg) ∧
      (∀ b, owns agent (.snap b) = true ↔ agent = .inputCollector) ∧
      (∀ x y, owns agent (.gundn x y) = true ↔ agent = .inputCollector) ∧
      (owns agent .gunup = true ↔ agent = .inputCollector) ∧ (owns agent .guntg = true ↔ agent = .inputCollector) ∧
      (∀ src, owns agent (.irqa src) = true ↔ agent = .irqSource src) ∧
      (∀ src, owns agent (.irqk src) = true ↔ agent = .irqSource src) ∧
      (owns agent .irqv = true ↔ agent = .cpuIrqSense) ∧
      (∀ f, owns agent (.fpub f) = true ↔ agent = .frameProducer) ∧ (owns agent .facq = true ↔ agent = .frameConsumer) ∧
      (∀ xs, owns agent (.apush xs) = true ↔ agent = .audioProducer) ∧
      (∀ n, owns agent (.apull n) = true ↔ agent = .audioConsumer) ∧
      (owns agent .avail = true ↔ agent = .audioConsumer ∨ agent = .audioProducer) ∧
      (owns agent .reset = true ↔ agent = .host) ∧ (owns agent .stop = true ↔ agent = .host)

/-! The Bus (40_bus.md, 20_memory.md R40 to R52). -/

/-- Under a legal map every address has exactly one region: the named one that contains it, or UNMAPPED (R32, R41). -/
def Obligations.EveryAddressHasOneRegion : Prop :=
  ∀ (m : AddrMap) (a : Addr), m.wf = true →
    (region m a = .low ↔ m.low.has a = true) ∧ (region m a = .ppu ↔ m.ppu.has a = true) ∧
      (region m a = .io ↔ m.io.has a = true) ∧ (region m a = .cart ↔ m.cart.has a = true) ∧
      (region m a = .unmapped ↔
        m.low.has a = false ∧ m.ppu.has a = false ∧ m.io.has a = false ∧ m.cart.has a = false)

/-- CPUR in LOW (forwarded), PPU, IO away from the ports, or CART makes one call, to that region's handler with the full
address (in PPU the canonical one), returns its answer unchanged and changes nothing else (R91, R92, R93, R96). -/
def Obligations.ReadsForwardedByRegion : Prop :=
  ∀ (s : State) (a : Addr), s.cfg.map.wf = true →
    (s.cfg.map.low.has a = true → s.cfg.lowMode = .forward → readsThrough (.cpur a) (.workRamReads a) s) ∧
      (s.cfg.map.ppu.has a = true →
        readsThrough (.cpur a) (.ppuReads (BitVec.ofNat 16 (s.cfg.map.ppu.base.toNat + a.toNat % 8))) s) ∧
      (s.cfg.map.io.has a = true → a ≠ s.cfg.map.port1Addr → a ≠ s.cfg.map.port2Addr →
        readsThrough (.cpur a) (.apuReads a) s) ∧
      (s.cfg.map.cart.has a = true → readsThrough (.cpur a) (.cartCpuReads a) s)

/-- CPUW in LOW (forwarded), PPU, IO away from the strobe, or CART makes one call, to that region's handler with the
address and the byte, and changes nothing else (R99, R100, R101, R103). -/
def Obligations.WritesForwardedByRegion : Prop :=
  ∀ (s : State) (a : Addr) (v : Byte), s.cfg.map.wf = true →
    (s.cfg.map.low.has a = true → s.cfg.lowMode = .forward → callsOnce (.cpuw a v) (.workRamWrites a v) s) ∧
      (s.cfg.map.ppu.has a = true →
        callsOnce (.cpuw a v) (.ppuWrites (BitVec.ofNat 16 (s.cfg.map.ppu.base.toNat + a.toNat % 8)) v) s) ∧
      (s.cfg.map.io.has a = true → a ≠ s.cfg.map.strobeAddr → callsOnce (.cpuw a v) (.apuWrites a v) s) ∧
      (s.cfg.map.cart.has a = true → callsOnce (.cpuw a v) (.cartCpuWrites a v) s)

/-- An unmapped read returns 0x00 and an unmapped write is discarded: no call, no state changed, EC1 raised (R97, R108). -/
def Obligations.UnmappedAccessRecovered : Prop :=
  ∀ (s : State) (a : Addr) (v : Byte), s.cfg.map.wf = true →
    ((s.cfg.map.low.has a = false ∧ s.cfg.map.ppu.has a = false ∧ s.cfg.map.io.has a = false ∧
        s.cfg.map.cart.has a = false) ∨ (s.cfg.map.low.has a = true ∧ s.cfg.lowMode = .unmapped)) →
      exec (.cpur a) s = .next { s with raised := s.raised ++ [.unmappedRead a], result := .byte 0x00 } ∧
        exec (.cpuw a v) s = .next { s with raised := s.raised ++ [.unmappedWrite a], result := .none }

/-- Addresses of the PPU region with the same remainder modulo 8 select the same register (R42). -/
def Obligations.PpuRegistersMirrored : Prop :=
  ∀ (s : State) (a b : Addr) (v : Byte), s.cfg.map.wf = true → s.cfg.map.ppu.has a = true → s.cfg.map.ppu.has b = true →
    a.toNat % 8 = b.toNat % 8 → exec (.cpur a) s = exec (.cpur b) s ∧ exec (.cpuw a v) s = exec (.cpuw b v) s

/-- PPUR and PPUW forward every address to the cartridge, unmasked at the default width of 16 bits; SETNMI and PPUCFG forward
one call each; none of them touches state of CORE (R104, R105, R106, R107).  Under another `PPU_ADDR_W` (00_scope.md R9, D28)
the address carried is the operand's low bits: log entry 2, DESIGN CHOICE. -/
def Obligations.PpuSideAndPassThroughForwarded : Prop :=
  ∀ (s : State) (a : Addr) (v : Byte) (b : Bool) (k : PpuSetter),
    (s.cfg.ppuAddrW = 16 → readsThrough (.ppur a) (.cartPpuReads a) s ∧ callsOnce (.ppuw a v) (.cartPpuWrites a v) s) ∧
      (∀ c : Addr, c.toNat = a.toNat % 2 ^ s.cfg.ppuAddrW →
        readsThrough (.ppur a) (.cartPpuReads c) s ∧ callsOnce (.ppuw a v) (.cartPpuWrites c v) s) ∧
      callsOnce (.setnmi b) (.setNmi b) s ∧ callsOnce (.ppucfg k v) (.ppuSet k v) s

/-- The read rows of R74 under the default map, each with the handler its row names; the two port rows are in Port1Read,
Port2ShiftRead and GunRead.  The addresses are the defaults of 00_scope.md R9, the spec's general knowledge (log entry 2). -/
def Obligations.ReadRowsAnswer : Prop :=
  ∀ s : State, s.cfg.map = AddrMap.default →
    (∀ off, s.cfg.lowMode = .forward → readsThrough (.cpurLow0000 off) (.workRamReads (off.setWidth 16)) s) ∧
      (∀ off, s.cfg.lowMode = .unmapped → exec (.cpurLow0000 off) s =
        .next { s with raised := s.raised ++ [.unmappedRead (off.setWidth 16)], result := .byte 0x00 }) ∧
      (∀ off, readsThrough (.cpurPpu2000 off) (.ppuReads (0x2000#16 ||| (off.setWidth 16 &&& 7#16))) s) ∧
      (∀ off, readsThrough (.cpurIo4000 off) (.apuReads (0x4000#16 + off.setWidth 16)) s) ∧
      (∀ off, readsThrough (.cpurIo4010 off) (.apuReads (0x4010#16 + off.setWidth 16)) s) ∧
      (∀ off, readsThrough (.cpurIo4014 off) (.apuReads (0x4014#16 + off.setWidth 16)) s) ∧
      (∀ off, exec (.cpurUnmapped4018 off) s =
        .next { s with raised := s.raised ++ [.unmappedRead (0x4018#16 + off.setWidth 16)], result := .byte 0x00 }) ∧
      (∀ off, readsThrough (.cpurCart4020 off) (.cartCpuReads (0x4020#16 + off.setWidth 16)) s) ∧
      (∀ off, readsThrough (.cpurCart4040 off) (.cartCpuReads (0x4040#16 + off.setWidth 16)) s) ∧
      (∀ off, readsThrough (.cpurCart4080 off) (.cartCpuReads (0x4080#16 + off.setWidth 16)) s) ∧
      (∀ off, readsThrough (.cpurCart4100 off) (.cartCpuReads (0x4100#16 + off.setWidth 16)) s) ∧
      (∀ off, readsThrough (.cpurCart4200 off) (.cartCpuReads (0x4200#16 + off.setWidth 16)) s) ∧
      (∀ off, readsThrough (.cpurCart4400 off) (.cartCpuReads (0x4400#16 + off.setWidth 16)) s) ∧
      (∀ off, readsThrough (.cpurCart4800 off) (.cartCpuReads (0x4800#16 + off.setWidth 16)) s) ∧
      (∀ off, readsThrough (.cpurCart5000 off) (.cartCpuReads (0x5000#16 + off.setWidth 16)) s) ∧
      (∀ off, readsThrough (.cpurCart6000 off) (.cartCpuReads (0x6000#16 + off.setWidth 16)) s) ∧
      (∀ off, readsThrough (.cpurCart8000 off) (.cartCpuReads (0x8000#16 + off.setWidth 16)) s)

/-- The write rows of R74 under the default map, each with the handler its row names; the strobe row is in
StrobeWriteReloads.  The addresses are the defaults of 00_scope.md R9, the spec's general knowledge (log entry 2). -/
def Obligations.WriteRowsComplete : Prop :=
  ∀ (s : State) (v : Byte), s.cfg.map = AddrMap.default →
    (∀ off, s.cfg.lowMode = .forward → callsOnce (.cpuwLow0000 off v) (.workRamWrites (off.setWidth 16) v) s) ∧
      (∀ off, s.cfg.lowMode = .unmapped → exec (.cpuwLow0000 off v) s =
        .next { s with raised := s.raised ++ [.unmappedWrite (off.setWidth 16)], result := .none }) ∧
      (∀ off, callsOnce (.cpuwPpu2000 off v) (.ppuWrites (0x2000#16 ||| (off.setWidth 16 &&& 7#16)) v) s) ∧
      (∀ off, callsOnce (.cpuwIo4000 off v) (.apuWrites (0x4000#16 + off.setWidth 16) v) s) ∧
      (∀ off, callsOnce (.cpuwIo4010 off v) (.apuWrites (0x4010#16 + off.setWidth 16) v) s) ∧
      (∀ off, callsOnce (.cpuwIo4014 off v) (.apuWrites (0x4014#16 + off.setWidth 16) v) s) ∧
      callsOnce (.cpuwPort2 v) (.apuWrites 0x4017#16 v) s ∧
      (∀ off, exec (.cpuwUnmapped4018 off v) s =
        .next { s with raised := s.raised ++ [.unmappedWrite (0x4018#16 + off.setWidth 16)], result := .none }) ∧
      (∀ off, callsOnce (.cpuwCart4020 off v) (.cartCpuWrites (0x4020#16 + off.setWidth 16) v) s) ∧
      (∀ off, callsOnce (.cpuwCart4040 off v) (.cartCpuWrites (0x4040#16 + off.setWidth 16) v) s) ∧
      (∀ off, callsOnce (.cpuwCart4080 off v) (.cartCpuWrites (0x4080#16 + off.setWidth 16) v) s) ∧
      (∀ off, callsOnce (.cpuwCart4100 off v) (.cartCpuWrites (0x4100#16 + off.setWidth 16) v) s) ∧
      (∀ off, callsOnce (.cpuwCart4200 off v) (.cartCpuWrites (0x4200#16 + off.setWidth 16) v) s) ∧
      (∀ off, callsOnce (.cpuwCart4400 off v) (.cartCpuWrites (0x4400#16 + off.setWidth 16) v) s) ∧
      (∀ off, callsOnce (.cpuwCart4800 off v) (.cartCpuWrites (0x4800#16 + off.setWidth 16) v) s) ∧
      (∀ off, callsOnce (.cpuwCart5000 off v) (.cartCpuWrites (0x5000#16 + off.setWidth 16) v) s) ∧
      (∀ off, callsOnce (.cpuwCart6000 off v) (.cartCpuWrites (0x6000#16 + off.setWidth 16) v) s) ∧
      (∀ off, callsOnce (.cpuwCart8000 off v) (.cartCpuWrites (0x8000#16 + off.setWidth 16) v) s)

/-- The address decode of R74 and the region dispatch of R90 and R98 are two designs of one function: under the default
map a row does to every state what CPUR or CPUW of its address does. -/
def Obligations.RowsAgreeWithBus : Prop :=
  ∀ (s : State) (a : Addr) (v : Byte), s.cfg.map = AddrMap.default →
    exec (rowRead (rowOf a)) s = exec (.cpur a) s ∧ exec (rowWrite (rowOf a) v) s = exec (.cpuw a v) s

/-- Which accesses have side effects inside CORE (R52): reads of the ports, as far as R52 says, and writes of the strobe. -/
def Obligations.SideEffectsOfAccesses : Prop :=
  ∀ (s t : State) (a : Addr) (v : Byte), s.cfg.map.wf = true →
    (exec (.cpur a) s = .next t →
      (a ≠ s.cfg.map.port1Addr → a ≠ s.cfg.map.port2Addr → coreOf t = coreOf s) ∧
        (a = s.cfg.map.port1Addr → s.strobe = false → coreOf t = coreOf { s with shift1 := t.shift1 }) ∧
        (a = s.cfg.map.port2Addr → s.connected = true → coreOf t = coreOf s) ∧
        (a = s.cfg.map.port2Addr → s.connected = false → s.strobe = false →
          coreOf t = coreOf { s with shift2 := t.shift2 }) ∧
        (a = s.cfg.map.port1Addr ∨ a = s.cfg.map.port2Addr → s.strobe = true →
          coreOf t = coreOf { s with shift1 := t.shift1, shift2 := t.shift2 } ∧ exec (.cpur a) t = .next t)) ∧
      (exec (.cpuw a v) s = .next t → a ≠ s.cfg.map.strobeAddr → coreOf t = coreOf s)

/-! InputLatch (41_input_latch.md). -/

/-- SNAP replaces the snapshot and touches nothing else (R110). -/
def Obligations.SnapReplacesSnapshot : Prop :=
  ∀ (s : State) (b : BitVec 16), exec (.snap b) s = .next { s with snapshot := b, result := .none }

/-- A strobe write takes bit 0, and reloads where the strobe was 1 or becomes 1: shift1 from the low byte, shift2 from the
high byte unless a light gun is connected (R111, R112; the reload on the falling write is the spec's decision D7). -/
def Obligations.StrobeWriteReloads : Prop :=
  ∀ (s : State) (i : Instr) (v : Byte), s.cfg.map.wf = true → (i = .cpuw s.cfg.map.strobeAddr v ∨ i = .cpuwStrobe v) →
    exec i s = .next { s with
      strobe := v.getLsbD 0
      shift1 := if s.strobe || v.getLsbD 0 then s.snapshot.extractLsb' 0 8 else s.shift1
      shift2 :=
        if (s.strobe || v.getLsbD 0) && !s.connected then s.snapshot.extractLsb' 8 8 else s.shift2
      result := .none }

/-- A port-1 read in Latching reloads and returns bit 0 of the snapshot; in Shifting it returns bit 0 of shift1 and shifts
it right, a 1 entering at bit 7; bit 6 of the result is set (R113). -/
def Obligations.Port1Read : Prop :=
  ∀ (s : State) (i : Instr), s.cfg.map.wf = true → port1Read s i →
    (s.strobe = true → exec i s = .next { s with
      shift1 := s.snapshot.extractLsb' 0 8
      shift2 := if s.connected then s.shift2 else s.snapshot.extractLsb' 8 8
      result := .byte (serialByte (s.snapshot.getLsbD 0)) }) ∧
    (s.strobe = false → exec i s = .next { s with
      shift1 := (s.shift1 >>> 1) ||| 0x80
      result := .byte (serialByte (s.shift1.getLsbD 0)) })

/-- A port-2 read with no light gun connected is the same with shift2; in Latching it returns bit 8 of the snapshot (R114). -/
def Obligations.Port2ShiftRead : Prop :=
  ∀ (s : State) (i : Instr), s.cfg.map.wf = true → port2Read s i → s.connected = false →
    (s.strobe = true → exec i s = .next { s with
      shift1 := s.snapshot.extractLsb' 0 8
      shift2 := s.snapshot.extractLsb' 8 8
      result := .byte (serialByte (s.snapshot.getLsbD 8)) }) ∧
    (s.strobe = false → exec i s = .next { s with
      shift2 := (s.shift2 >>> 1) ||| 0x80
      result := .byte (serialByte (s.shift2.getLsbD 0)) })

/-- After `k` Shifting reads of a port its register is the old one with `k` ones shifted in, 0xFF from eight on; the reads
return the old bits in order, then 1 (R117). -/
def Obligations.ShiftRegisterConverges : Prop :=
  ∀ (s : State) (k : Nat), s.cfg.map.wf = true → s.strobe = false →
    (∃ t, runOps (List.replicate k (.cpur s.cfg.map.port1Addr)) s = some (t, (List.range k).map (fun j =>
        .byte (if j < 8 then serialByte (s.shift1.getLsbD j) else 0x41))) ∧
      t.shift1 = if k ≤ 8 then BitVec.ofNat 8 (0xFF <<< (8 - k)) ||| (s.shift1 >>> k) else 0xFF) ∧
    (s.connected = false →
      ∃ t, runOps (List.replicate k (.cpur s.cfg.map.port2Addr)) s = some (t, (List.range k).map (fun j =>
          .byte (if j < 8 then serialByte (s.shift2.getLsbD j) else 0x41))) ∧
        t.shift2 = if k ≤ 8 then BitVec.ofNat 8 (0xFF <<< (8 - k)) ||| (s.shift2 >>> k) else 0xFF)

/-- The testable properties of R118: (a) held high across any number of writes, every read returns bit 0 of the snapshot;
(b) after one pulse the reads return the eight bits of controller 1, A first, then 1; (c) the scenario of one button. -/
def Obligations.LatchReadoutProperties : Prop :=
  ∀ s : State, s.cfg.map.wf = true →
    (∀ (vs : List Byte) (m : Nat), vs ≠ [] → (∀ v ∈ vs, v.getLsbD 0 = true) →
      ∃ t rs, runOps (vs.map (.cpuw s.cfg.map.strobeAddr) ++ List.replicate m (.cpur s.cfg.map.port1Addr)) s =
          some (t, rs) ∧
        rs.drop vs.length = List.replicate m (.byte ((s.snapshot.extractLsb' 0 8 &&& 1) ||| 0x40))) ∧
    (∀ k : Nat, ∃ t rs, runOps ([.cpuw s.cfg.map.strobeAddr 0x01, .cpuw s.cfg.map.strobeAddr 0x00] ++
          List.replicate k (.cpur s.cfg.map.port1Addr)) s = some (t, rs) ∧
        rs.drop 2 = (List.range k).map (fun j =>
          .byte (if j < 8 then serialByte (s.snapshot.getLsbD j) else 0x41))) ∧
    (s.snapshot = 0x0001 → ∃ t rs, runOps [.cpuw s.cfg.map.strobeAddr 0x01, .cpuw s.cfg.map.strobeAddr 0x00,
          .cpur s.cfg.map.port1Addr, .cpur s.cfg.map.port1Addr] s = some (t, rs) ∧
        rs.drop 2 = [.byte 0x41, .byte 0x40])

/-- Bit 6 is set in every read of a port, in both states, with or without a light gun, and in no other read is anything
added to what the handler answers (R116).  That a serial read is 0x40 or 0x41 is 30_encoding.md R75(b), the spec's own
decision D9 (log entry 26). -/
def Obligations.OpenBusBitOnPortReads : Prop :=
  ∀ (s t : State) (i : Instr), s.cfg.map.wf = true → exec i s = .next t →
    (port1Read s i ∨ port2Read s i →
      ∃ b : Byte, t.result = .byte b ∧ b.getLsbD 6 = true ∧ (port1Read s i ∨ s.connected = false → b = 0x40 ∨ b = 0x41)) ∧
    (¬port1Read s i → ¬port2Read s i → ∀ b, t.result = .byte b → b = Config.oracleByte s.draws ∨ b = 0x00)

/-- No operation can observe a shift register that its next use reloads or that a connected light gun displaces: two
states that differ only there have, under every operation, the same outcome up to such registers (10_state.md R28, R134). -/
def Obligations.ReloadedRegistersUnobservable : Prop :=
  ∀ (i : Instr) (s t : State), sameButReloaded s t → sameOutcome (exec i s) (exec i t)

/-! LightGunPeripheral (42_light_gun.md). -/

/-- GUNDN stores the position and asserts the trigger, nothing else; a row below the frame is illegal (R130, R73). -/
def Obligations.GunDownStoresPosition : Prop :=
  ∀ (s : State) (x y : Byte),
    (y.toNat ≤ 239 → exec (.gundn x y) s = .next { s with gunX := x, gunY := y, trigger := true, result := .none }) ∧
      (240 ≤ y.toNat → exec (.gundn x y) s = .refused .illegalOperand)

/-- GUNUP clears the trigger and, in the same step, takes the answer of one hit test at the stored position; the answer is
any bit (R131, 00_scope.md R8). -/
def Obligations.GunUpTakesHitTest : Prop :=
  ∀ s : State, exec .gunup s = .next { s with
    trigger := false
    lightSensed := Config.oracleBit s.draws
    calls := s.calls ++ [.checkTargetHit s.gunX s.gunY]
    draws := s.draws + 1
    result := .none }

/-- GUNTG toggles the connection, clears both shift registers and raises EC2, nothing else (R132, 60_exceptions.md R202). -/
def Obligations.GunToggleClearsRegisters : Prop :=
  ∀ s : State, exec .guntg s = .next { s with
    connected := !s.connected
    shift1 := 0x00
    shift2 := 0x00
    raised := s.raised ++ [.peripheralToggle]
    result := .none }

/-- A port-2 read with a light gun connected: bit 4 is the trigger, bit 3 NOT lightSensed, bit 6 one, the others those of
GUN_DC; no state changes (R133).  Bits 7, 5, 2, 1 and 0 are the parameter GUN_DC (log entry 6). -/
def Obligations.GunRead : Prop :=
  ∀ (s : State) (i : Instr), s.cfg.map.wf = true → port2Read s i → s.connected = true →
    ∃ b : Byte, exec i s = .next { s with result := .byte b } ∧ b.getLsbD 4 = s.trigger ∧
      b.getLsbD 3 = !s.lightSensed ∧ b.getLsbD 6 = true ∧ b &&& 0xA7 = s.cfg.gunDc &&& 0xA7

/-- While a light gun is connected nothing but the toggle, and RESET, writes shift2 (R134, 10_state.md R12). -/
def Obligations.ConnectedGunKeepsShift2 : Prop :=
  ∀ (i : Instr) (s t : State), s.connected = true → exec i s = .next t → i ≠ .guntg → i ≠ .reset →
    t.shift2 = s.shift2 ∧ t.connected = true

/-- The gun's row stays in the frame and the interrupt mask in its width, whatever a step does (10_state.md R14, R18). -/
def Obligations.GunAndIrqStayInRange : Prop :=
  ∀ s t : State, gunOk s → irqOk s → step s = .next t → gunOk t ∧ irqOk t

/-- GUNSET expands so that it leaves the connection as asked and clears nothing where it already is (30_encoding.md R77). -/
def Obligations.GunsetExpansion : Prop :=
  ∀ (s : State) (c : Bool), ∃ t rs, runOps (Pseudo.expand s.cfg.map s.connected (.gunset c)) s = some (t, rs) ∧
    t.connected = c ∧ (s.connected = c → t = s)

/-! IRQLine (43_irq_line.md). -/

/-- IRQA sets exactly the caller's bit and IRQK clears exactly it, nothing else; a source the mask has no bit for is
illegal and refused (R145, R146, 30_encoding.md R73). -/
def Obligations.IrqAssertAckOneBit : Prop :=
  ∀ (s : State) (src : Byte),
    (src.toNat < s.cfg.irqW →
      (∃ m : IrqMask, exec (.irqa src) s = .next { s with irq := m, result := .none } ∧
        ∀ j, j < 256 → m.getLsbD j = (decide (j = src.toNat) || s.irq.getLsbD j)) ∧
      (∃ m : IrqMask, exec (.irqk src) s = .next { s with irq := m, result := .none } ∧
        ∀ j, j < 256 → m.getLsbD j = (!decide (j = src.toNat) && s.irq.getLsbD j))) ∧
    (s.cfg.irqW ≤ src.toNat →
      exec (.irqa src) s = .refused .illegalOperand ∧ exec (.irqk src) s = .refused .illegalOperand)

/-- IRQV returns the whole mask and changes nothing; the line is pending where any bit is set (R147, 60_exceptions.md R206). -/
def Obligations.IrqValueIsWholeMask : Prop :=
  ∀ s : State, exec .irqv s = .next { s with result := .mask s.irq } ∧
    (irqLine s.irq = true ↔ ∃ j, j < 256 ∧ s.irq.getLsbD j = true)

/-- After any sequence of IRQA (true) and IRQK (false) on legal sources each bit is as the last operation naming it left it;
operations on different sources commute (R148).  The three named sources are legal and distinct under legal parameters
(00_scope.md R9, D15). -/
def Obligations.IrqLastOperationWins : Prop :=
  (∀ (s : State) (ops : List (Bool × Byte)), (∀ o ∈ ops, o.2.toNat < s.cfg.irqW) →
    ∃ t rs, runOps (ops.map (fun o => if o.1 then .irqa o.2 else .irqk o.2)) s = some (t, rs) ∧
      ∀ src : Byte, t.irq.getLsbD src.toNat =
        match ops.reverse.find? (fun o => decide (o.2 = src)) with
        | some o => o.1
        | none => s.irq.getLsbD src.toNat) ∧
  (∀ (s : State) (a b : Bool × Byte), a.2 ≠ b.2 → a.2.toNat < s.cfg.irqW → b.2.toNat < s.cfg.irqW →
    runOps [if a.1 then .irqa a.2 else .irqk a.2, if b.1 then .irqa b.2 else .irqk b.2] s =
      runOps [if b.1 then .irqa b.2 else .irqk b.2, if a.1 then .irqa a.2 else .irqk a.2] s) ∧
  (∀ p : Params, p.wf = true →
    let sources := [p.irqSources.frameCounter, p.irqSources.mapperScanline, p.irqSources.dmc]
    (∀ src ∈ sources, src.toNat < p.irqW) ∧ sources.Nodup)

/-! FrameChannel (44_frame_channel.md). -/

/-- With the lock free FPUB copies its whole frame into the slot and FACQ returns the whole slot; neither changes anything
else, and the frame published stands in the table unchanged (R160, R161). -/
def Obligations.PublishAndAcquireWhole : Prop :=
  (∀ (s : State) (f : BitVec 24) (F : Frame), frameOf s f = some F → s.fprod = none → s.flock = .free →
    exec (.fpub f) s = .next { s with slot := F, result := .none }) ∧
  (∀ s : State, s.fcons = none → s.flock = .free → exec .facq s = .next { s with result := .frame s.slot })

/-- With the lock held FPUB and FACQ wait at their first step, which is enabled only once the lock is free and then takes it;
the release step is always enabled (R162, R164, 20_memory.md R61).  That a whole FPUB or FACQ under a held lock stays in
progress at P1 or C1, and that a step not enabled answers the same state with no result, is log entry 8, DEDUCED.  In every
weakly fair run the lock is always freed again, and every APUSH and APULL, which never wait, completes (R164, 45_audio_ring.md
R181, 70_reset_and_hazards.md R252; the form of a fair run is log entry 31, DESIGN CHOICE). -/
def Obligations.HeldLockMakesWait : Prop :=
  (∀ (s : State) (f : BitVec 24) (F : Frame), frameOf s f = some F → s.fprod = none → s.flock ≠ .free →
    exec (.fpub f) s = .next { s with fprod := some { frame := F, stage := .lock }, result := .none }) ∧
  (∀ s : State, s.fcons = none → s.flock ≠ .free → exec .facq s = .next { s with fcons := some .lock, result := .none }) ∧
  (∀ (s : State) (F : Frame) (n : Nat), s.fprod = some { frame := F, stage := .lock } →
    advance .frameProducer n s =
      if s.flock = .free then
        .next { s with flock := .heldP, fprod := some { frame := F, stage := .copy 0 }, result := .none }
      else .next { s with result := .none }) ∧
  (∀ (s : State) (n : Nat), s.fcons = some .lock →
    advance .frameConsumer n s =
      if s.flock = .free then .next { s with flock := .heldC, fcons := some (.copy [] 0), result := .none }
      else .next { s with result := .none }) ∧
  (∀ (s : State) (F : Frame) (n : Nat), s.fprod = some { frame := F, stage := .release } →
    advance .frameProducer n s = .next { s with flock := .free, fprod := none, result := .none }) ∧
  (∀ (s : State) (out : Frame) (n : Nat), s.fcons = some (.release out) →
    advance .frameConsumer n s = .next { s with flock := .free, fcons := none, result := .frame out }) ∧
  (∀ (schedule : Nat → Event) (states : Nat → State), safe (states 0) → runsUnder schedule states →
    weaklyFair schedule states → ∀ k, (∃ j, k ≤ j ∧ (states j).flock = .free) ∧
      (∃ j, k ≤ j ∧ (states j).aprod = none) ∧ (∃ j, k ≤ j ∧ (states j).acons = none))

/-- A second user of a channel's end and a handle that names no frame are refused.  70_reset_and_hazards.md R242 says of a
second user only that CORE does not detect it: the refusal is U12 of 93_implementation_defined.md and log entry 10, DEDUCED.
30_encoding.md R78 says only that the operand is a handle into a table: the refusal of an unknown one is log entry 12,
DESIGN CHOICE. -/
def Obligations.ChannelMisuseRefused : Prop :=
  ∀ (s : State) (f : BitVec 24) (xs : List Sample) (n : Nat),
    (frameOf s f = none → exec (.fpub f) s = .refused (.noSuchFrame f)) ∧
      ((frameOf s f).isSome = true → s.fprod.isSome = true → exec (.fpub f) s = .refused (.secondUser .frameProducer)) ∧
      (s.fcons.isSome = true → exec .facq s = .refused (.secondUser .frameConsumer)) ∧
      (s.aprod.isSome = true → exec (.apush xs) s = .refused (.secondUser .audioProducer)) ∧
      (s.acons.isSome = true → exec (.apull n) s = .refused (.secondUser .audioConsumer))

/-- The three-step protocol of R162, run without interference, is the atomic operation of R160 and R161, whatever runs of
pixels the copy step takes: `ns` are their lengths.  That the runs are copied in index order is log entry 7, DESIGN CHOICE. -/
def Obligations.FrameProtocolRefinesAtomic : Prop :=
  ∀ (s : State) (ns : List Nat), memoriesOk s → s.flock = .free → Config.frameWords ≤ ns.sum →
    ns.dropLast.sum < Config.frameWords →
      (∀ F, s.fprod = some { frame := F, stage := .lock } →
        Host.Core.run Sys2Proof.core (ns.length + 2)
            { s with inbox := .advance .frameProducer 0 :: ns.map (.advance .frameProducer) ++ [.advance .frameProducer 0] } =
          .next { s with slot := F, fprod := none, inbox := [], result := .none }) ∧
      (s.fcons = some .lock →
        Host.Core.run Sys2Proof.core (ns.length + 2)
            { s with inbox := .advance .frameConsumer 0 :: ns.map (.advance .frameConsumer) ++ [.advance .frameConsumer 0] } =
          .next { s with fcons := none, inbox := [], result := .frame s.slot })

/-- No tearing, step by step: every step keeps the lock held by exactly the end inside its critical section, and what
either end has copied agrees with the slot (R162, R163(a), 10_state.md R30). -/
def Obligations.NoTearingStepByStep : Prop :=
  ∀ s t : State, untorn s → step s = .next t → untorn t

/-- The slot is an atomic register of frames: whatever steps interleave, outside a publication it holds the frame last
published, and every FACQ returns, in all its pixels, the frame last published when it ends (R56, R163). -/
def Obligations.AcquireReturnsLastPublished : Prop :=
  ∀ (s t : State) (g : Frame), untorn s → slotHolds s g → step s = .next t →
    slotHolds t (publishedAfter s g) ∧
      (s.inbox ≠ [] → ∀ F, t.result = .frame F → ∀ i, i < Config.frameWords → Memory.read F i = Memory.read g i)

/-! AudioRing (45_audio_ring.md). -/

/-- APUSH accepts the first `min(n, free)` samples, stores them from the write cursor on, advances it by as many, and drops
the rest, counting them and raising EC4 where there are any; nothing else changes (R175, R184, 60_exceptions.md R204; the
drop-newest policy is the spec's decision D21).  Under the other policy an overflowing push leaves the ring full of samples
nothing constrains: the free value of log entry 15 (U1). -/
def Obligations.AudioPushAcceptsPrefix : Prop :=
  (∀ (s : State) (xs : List Sample) (k : Nat), memoriesOk s → s.aprod = none →
    k = min xs.length (s.cfg.ringCap - availNow s) → (s.cfg.overrun = .dropNewest ∨ k = xs.length) →
      ∃ b : Memory 16, exec (.apush xs) s = .next { s with
          buf := b
          wr := (s.wr + k) % 2 ^ s.cfg.curW
          overrunDropped := s.overrunDropped + (xs.length - k)
          raised := if k < xs.length then s.raised ++ [.audioOverrun (xs.length - k)] else s.raised
          result := .none } ∧
        (∀ i, i < k → Memory.read b ((s.wr + i) % s.cfg.ringCap) = xs.getD i 0) ∧
        (∀ j, (∀ i, i < k → j ≠ (s.wr + i) % s.cfg.ringCap) → Memory.read b j = Memory.read s.buf j)) ∧
  (∀ (s : State) (xs : List Sample) (k : Nat), s.aprod = none → k = s.cfg.ringCap - availNow s → k < xs.length →
    s.cfg.overrun = .overwriteOldest →
      exec (.apush xs) s = .next { s with
        buf := freeRing s.cfg.ringCap s.draws
        draws := s.draws + 1
        wr := (s.wr + k) % 2 ^ s.cfg.curW
        overrunDropped := s.overrunDropped + (xs.length - k)
        raised := s.raised ++ [.audioOverrun (xs.length - k)]
        result := .none })

/-- APULL returns the oldest samples, in order, and frees their slots where enough are available; otherwise it returns
silence, raises EC3 and drains nothing (R176, 60_exceptions.md R203). -/
def Obligations.AudioPullAllOrNothing : Prop :=
  ∀ (s : State) (n : Nat), s.acons = none →
    (n ≤ availNow s → ∃ l : List Sample,
      exec (.apull n) s = .next { s with rd := (s.rd + n) % 2 ^ s.cfg.curW, result := .samples l } ∧ l.length = n ∧
        ∀ i, i < n → l.getD i 0 = Memory.read s.buf ((s.rd + i) % s.cfg.ringCap)) ∧
    (availNow s < n → exec (.apull n) s = .next { s with
      raised := s.raised ++ [.audioUnderrun n (availNow s)], result := .samples (List.replicate n 0) })

/-- AVAIL returns the difference of the cursors modulo `2^CUR_W` and changes nothing (R177, R184).  That an overlapped AVAIL
returns the difference at its step, where U14 admits any value within the bounds, is log entry 28, DESIGN CHOICE. -/
def Obligations.AvailIsCursorDifference : Prop :=
  ∀ s : State, exec .avail s = .next { s with result := .count (availNow s) } ∧ availNow s < 2 ^ s.cfg.curW ∧
    (s.rd + availNow s) % 2 ^ s.cfg.curW = s.wr % 2 ^ s.cfg.curW

/-- Neither cursor overtakes the other by more than the capacity, whatever steps of the two ends interleave, and what
either end has claimed stays within the free or the available samples (10_state.md R31, R178, R179).  With it every step
keeps all that the spec promises of a state, among it that the emulation thread runs one operation at a time (20_memory.md
R54) and that a loop which has observed the flag clear runs none (60_exceptions.md R216). -/
def Obligations.RingCursorsWithinCapacity : Prop :=
  (∀ s t : State, s.cfg.wf = true → cursorsOk s → step s = .next t → cursorsOk t) ∧
    ∀ s t : State, safe s → step s = .next t → safe t

/-- The ring is a queue: whatever steps of the two ends interleave, its contents change only by a push adding at the end
the samples it accepted, when it publishes them, and a pull removing from the front those it returns, when it frees them;
a pull returns exactly the oldest samples, or silence.  Nothing is reordered, duplicated or lost (R180, R178, R179). -/
def Obligations.RingIsQueue : Prop :=
  ∀ s t : State, ringOk s → step s = .next t →
    ringOk t ∧ ringContents t = queueAfter s ∧ (∀ l, samplesAfter s = some l → t.result = .samples l)

/-- The step-level protocols of R178 and R179, run without interference, are the atomic operations of R175 and R176,
whatever runs of samples the copy step takes: `ns` are their lengths.  That the runs are copied in index order is log entry 7,
DESIGN CHOICE; the steps at which EC3 and EC4 are raised are log entry 29, DESIGN CHOICE. -/
def Obligations.AudioProtocolsRefineAtomic : Prop :=
  ∀ (s : State) (ns : List Nat) (k : Nat), ns ≠ [] → k ≤ ns.sum → (ns.dropLast = [] ∨ ns.dropLast.sum < k) →
    (∀ xs, s.aprod = some { samples := xs, stage := .claim } → k = min xs.length (s.cfg.ringCap - availNow s) →
      (s.cfg.overrun = .dropNewest ∨ k = xs.length) →
        Host.Core.run Sys2Proof.core (ns.length + 2)
            { s with inbox := .advance .audioProducer 0 :: ns.map (.advance .audioProducer) ++ [.advance .audioProducer 0] } =
          exec (.apush xs) { s with aprod := none, inbox := [] }) ∧
    (s.acons = some { count := k, stage := .claim } →
      Host.Core.run Sys2Proof.core (ns.length + 2)
          { s with inbox := .advance .audioConsumer 0 :: ns.map (.advance .audioConsumer) ++ [.advance .audioConsumer 0] } =
        exec (.apull k) { s with acons := none, inbox := [] })

/-- AudioRing and FrameChannel share no state: what the audio operations and steps do neither reads nor writes the slot,
the lock or a frame operation in progress, and the converse (R182). -/
def Obligations.AudioAndFramesIndependent : Prop :=
  (∀ (s t : State) (m : Frame) (l : Lock) (p : Option Publish) (c : Option Acquire) (o : State → Host.Outcome State Fault Refusal),
    ((∃ xs, o = exec (.apush xs)) ∨ (∃ n, o = exec (.apull n)) ∨ o = exec .avail ∨ (∃ n, o = advance .audioProducer n) ∨
      ∃ n, o = advance .audioConsumer n) →
    o s = .next t →
      o { s with slot := m, flock := l, fprod := p, fcons := c } =
          .next { t with slot := m, flock := l, fprod := p, fcons := c } ∧
        t = { t with slot := s.slot, flock := s.flock, fprod := s.fprod, fcons := s.fcons }) ∧
  (∀ (s t : State) (m : Memory 16) (w r d : Nat) (p : Option Push) (c : Option Pull) (o : State → Host.Outcome State Fault Refusal),
    ((∃ f, o = exec (.fpub f)) ∨ o = exec .facq ∨ (∃ n, o = advance .frameProducer n) ∨
      ∃ n, o = advance .frameConsumer n) →
    o s = .next t →
      o { s with buf := m, wr := w, rd := r, overrunDropped := d, aprod := p, acons := c } =
          .next { t with buf := m, wr := w, rd := r, overrunDropped := d, aprod := p, acons := c } ∧
        t = { t with
          buf := s.buf, wr := s.wr, rd := s.rd, overrunDropped := s.overrunDropped, aprod := s.aprod, acons := s.acons })

/-! The whole machine. -/

/-- RESET leaves every state element at its reset value, calls no collaborator and raises nothing (70_reset_and_hazards.md
R230; all values but the zero frame are the spec's decision D24, log entry 5; that it ends operations in progress and
keeps the model's own record is log entry 16).  Where a RESET is admitted says ForeignAndBusyAgentsRefused. -/
def Obligations.ResetInstallsResetValues : Prop :=
  ∀ s : State, ∃ t, exec .reset s = .next t ∧
    t.strobe = false ∧ t.shift1 = 0x00 ∧ t.shift2 = 0x00 ∧ t.snapshot = 0x0000 ∧ t.gunX = 0 ∧ t.gunY = 0 ∧
      t.trigger = false ∧ t.lightSensed = false ∧ t.connected = false ∧ t.irq = 0 ∧ (∀ i, Memory.read t.slot i = 0) ∧
      t.flock = .free ∧ (∀ i, Memory.read t.buf i = 0) ∧ t.wr = 0 ∧ t.rd = 0 ∧ t.overrunDropped = 0 ∧ t.running = true ∧
      t.fprod = none ∧ t.fcons = none ∧ t.aprod = none ∧ t.acons = none ∧ t.emulationEnded = false ∧
      t.presentationEnded = false ∧ t.started = s.started ∧ t.cfg = s.cfg ∧ t.frames = s.frames ∧
      t.inbox = s.inbox ∧ t.calls = s.calls ∧ t.raised = s.raised ∧ t.draws = s.draws ∧ t.result = .none

/-- What a program that reads before initialising sees (70_reset_and_hazards.md R230, observable consequences of the
reset values the spec chose, D24, log entry 5). -/
def Obligations.ResetObservables : Prop :=
  ∀ (p : Params) (s : State), p.wf = true → s = { State.reset with cfg := p } →
    (∀ k : Nat, ∃ t u, runOps (List.replicate k (.cpur p.map.port1Addr)) s =
          some (t, (List.range k).map (fun j => .byte (if j < 8 then 0x40 else 0x41))) ∧
        runOps (List.replicate k (.cpur p.map.port2Addr)) s =
          some (u, (List.range k).map (fun j => .byte (if j < 8 then 0x40 else 0x41)))) ∧
      exec .irqv s = .next { s with result := .mask 0 } ∧ irqLine s.irq = false ∧
      (∃ F, exec .facq s = .next { s with result := .frame F } ∧ ∀ i, Memory.read F i = 0) ∧
      (∀ n, 1 ≤ n → ∃ t, exec (.apull n) s = .next t ∧ t.result = .samples (List.replicate n 0)) ∧
      exec .avail s = .next { s with result := .count 0 }

/-- STOP clears the running flag and changes nothing else (60_exceptions.md R216); the flag gates no operation: one other
than RESET does the same whatever the flag, which only STOP changes (10_state.md R25).  What a loop that has observed the
flag clear presents is refused before it is an operation: ForeignAndBusyAgentsRefused. -/
def Obligations.StopClearsRunningWhichGatesNothing : Prop :=
  (∀ s : State, exec .stop s = .next { s with running := false, result := .none }) ∧
    ∀ (i : Instr) (s t : State) (b : Bool), i ≠ .reset → exec i s = .next t →
      exec i { s with running := b } = .next { t with running := if i = .stop then false else b }

/-- Who writes each element of InputLatch and LightGunPeripheral: RESET, and nothing but the operations of 10_state.md R10
to R17. -/
def Obligations.LatchAndGunWriters : Prop :=
  ∀ (i : Instr) (s t : State), exec i s = .next t → i ≠ .reset →
    (t.strobe ≠ s.strobe → strobeWrite s i) ∧
      (t.shift1 ≠ s.shift1 → strobeWrite s i ∨ port1Read s i ∨ (port2Read s i ∧ s.strobe = true ∧ s.connected = false) ∨
        i = .guntg) ∧
      (t.shift2 ≠ s.shift2 → (strobeWrite s i ∨ port2Read s i ∨ (port1Read s i ∧ s.strobe = true)) ∧ s.connected = false ∨
        i = .guntg) ∧
      (t.snapshot ≠ s.snapshot → ∃ b, i = .snap b) ∧ (t.gunX ≠ s.gunX → ∃ x y, i = .gundn x y) ∧
      (t.gunY ≠ s.gunY → ∃ x y, i = .gundn x y) ∧ (t.trigger ≠ s.trigger → (∃ x y, i = .gundn x y) ∨ i = .gunup) ∧
      (t.lightSensed ≠ s.lightSensed → i = .gunup) ∧ (t.connected ≠ s.connected → i = .guntg)

/-- Who writes the mask, the slot and its lock, the ring and the running flag: RESET, and nothing but the operations and
protocol steps of 10_state.md R18 to R25; no operation but RESET changes the parameters or any of these otherwise (R27). -/
def Obligations.IrqFrameAndRingWriters : Prop :=
  (∀ (i : Instr) (s t : State), exec i s = .next t → i ≠ .reset →
    (t.irq ≠ s.irq → ∃ src, i = .irqa src ∨ i = .irqk src) ∧ (t.slot ≠ s.slot → ∃ f, i = .fpub f) ∧
      t.flock = s.flock ∧ (t.buf ≠ s.buf → ∃ xs, i = .apush xs) ∧ (t.wr ≠ s.wr → ∃ xs, i = .apush xs) ∧
      (t.overrunDropped ≠ s.overrunDropped → ∃ xs, i = .apush xs) ∧ (t.rd ≠ s.rd → ∃ n, i = .apull n) ∧
      (t.running ≠ s.running → i = .stop) ∧ t.started = s.started ∧ t.emulationEnded = s.emulationEnded ∧
      t.presentationEnded = s.presentationEnded ∧ t.cfg = s.cfg) ∧
  (∀ (side : Side) (n : Nat) (s t : State), advance side n s = .next t →
    (t.slot ≠ s.slot → side = .frameProducer) ∧ (t.flock ≠ s.flock → side = .frameProducer ∨ side = .frameConsumer) ∧
      (t.buf ≠ s.buf → side = .audioProducer) ∧ (t.wr ≠ s.wr → side = .audioProducer) ∧
      (t.overrunDropped ≠ s.overrunDropped → side = .audioProducer) ∧ (t.rd ≠ s.rd → side = .audioConsumer) ∧
      t = { t with
        strobe := s.strobe, shift1 := s.shift1, shift2 := s.shift2, snapshot := s.snapshot, gunX := s.gunX, gunY := s.gunY
        trigger := s.trigger, lightSensed := s.lightSensed, connected := s.connected, irq := s.irq
        running := s.running, started := s.started, emulationEnded := s.emulationEnded
        presentationEnded := s.presentationEnded, cfg := s.cfg, calls := s.calls })

/-- Every step keeps every memory, and every frame a protocol holds, in canonical form (10_state.md R19, R21: 61440 words
of 32 bits and RING_CAP of 16; the form is the model's). -/
def Obligations.MemoriesStayCanonical : Prop :=
  ∀ s t : State, s.cfg.wf = true → memoriesOk s → step s = .next t → memoriesOk t

/-- The state right after reset meets everything the spec promises of a state, and the invariants of the two channels
(10_state.md R14, R18, R30, R31; the reset values are log entry 5, the parameters log entry 2). -/
def Obligations.ResetStateIsSafe : Prop :=
  safe State.reset ∧ ringOk State.reset ∧ slotHolds State.reset [] ∧ ringContents State.reset = []

/-- Each operation raises exactly the conditions of R200's table, at most one: EC1 unmapped accesses, EC2 GUNTG, EC3 an APULL
of more than is available, EC4 an APUSH of more than is free (60_exceptions.md R200 to R205).  The number EC4 carries, the
samples that do not fit, is R204's under the drop-newest policy (the spec's decision D21); under OverwriteOldest the spec gives
no number, and that it is the same there is the model's choice: log entry 15, DESIGN CHOICE (93_implementation_defined.md U1). -/
def Obligations.ConditionsRaisedByTable : Prop :=
  ∀ (i : Instr) (s t : State), exec i s = .next t → t.raised = s.raised ++ conditionsOf i s

/-- No condition stops anything: every well-formed operation whose end is free, and for FPUB and FACQ the lock too, completes
and returns a value of its normal type (60_exceptions.md R200, 30_encoding.md R71).  Under a held lock FPUB and FACQ begin to
wait (log entry 8): HeldLockMakesWait. -/
def Obligations.OperationsAlwaysComplete : Prop :=
  ∀ (i : Instr) (s : State), i.wf s.cfg = true → canRun i s → ∃ t, exec i s = .next t ∧ resultKind i t.result
end

