-- ==== Sys2Proof/Laws/Decode.lean ====
section
/-! SUPPORT. Laws of the word fields, the payload packing and the address rows. -/

namespace Sys2Proof

theorem toNat_append_add {n m : Nat} (x : BitVec n) (y : BitVec m) :
    (x ++ y).toNat = x.toNat * 2 ^ m + y.toNat := by
  rw [BitVec.toNat_append, Nat.shiftLeft_eq, ← Nat.shiftLeft_eq, ← Nat.shiftLeft_add_eq_or_of_lt y.isLt, Nat.shiftLeft_eq]

theorem mkWord_toNat (c : BitVec 4) (d : BitVec 24) : (mkWord c d).toNat = c.toNat * 2 ^ 28 + d.toNat :=
  (toNat_append_add c (0#4 ++ d)).trans (by rw [toNat_append_add]; simp)

theorem mkOpd_toNat (a : BitVec 16) (b : BitVec 8) : (mkOpd a b).toNat = a.toNat * 2 ^ 8 + b.toNat :=
  toNat_append_add a b

theorem opcOf_toNat (w : Word) : (opcOf w).toNat = w.toNat / 2 ^ 28 := by
  have := w.isLt
  simp [opcOf, BitVec.extractLsb'_toNat, Nat.shiftRight_eq_div_pow]; omega

theorem mbzOf_toNat (w : Word) : (mbzOf w).toNat = w.toNat / 2 ^ 24 % 16 := by
  simp [mbzOf, BitVec.extractLsb'_toNat, Nat.shiftRight_eq_div_pow]

theorem opdOf_toNat (w : Word) : (opdOf w).toNat = w.toNat % 2 ^ 24 := by
  simp [opdOf, BitVec.extractLsb'_toNat]

theorem opdHi16_toNat (d : BitVec 24) : (opdHi16 d).toNat = d.toNat / 2 ^ 8 := by
  have := d.isLt
  simp [opdHi16, BitVec.extractLsb'_toNat, Nat.shiftRight_eq_div_pow]; omega

theorem opdHi8_toNat (d : BitVec 24) : (opdHi8 d).toNat = d.toNat / 2 ^ 16 := by
  have := d.isLt
  simp [opdHi8, BitVec.extractLsb'_toNat, Nat.shiftRight_eq_div_pow]; omega

theorem opdMid8_toNat (d : BitVec 24) : (opdMid8 d).toNat = d.toNat / 2 ^ 8 % 2 ^ 8 := by
  simp [opdMid8, BitVec.extractLsb'_toNat, Nat.shiftRight_eq_div_pow]

theorem opdLo8_toNat (d : BitVec 24) : (opdLo8 d).toNat = d.toNat % 2 ^ 8 := by
  simp [opdLo8, BitVec.extractLsb'_toNat]

@[simp] theorem opcOf_mkWord (c : BitVec 4) (d : BitVec 24) : opcOf (mkWord c d) = c := by
  have := c.isLt; have := d.isLt
  exact BitVec.eq_of_toNat_eq (by rw [opcOf_toNat, mkWord_toNat]; omega)

@[simp] theorem mbzOf_mkWord (c : BitVec 4) (d : BitVec 24) : mbzOf (mkWord c d) = 0 := by
  have := c.isLt; have := d.isLt
  exact BitVec.eq_of_toNat_eq (by rw [mbzOf_toNat, mkWord_toNat]; simp; omega)

@[simp] theorem opdOf_mkWord (c : BitVec 4) (d : BitVec 24) : opdOf (mkWord c d) = d := by
  have := c.isLt; have := d.isLt
  exact BitVec.eq_of_toNat_eq (by rw [opdOf_toNat, mkWord_toNat]; omega)

/-- A word with `mbz` zero is its two other fields. -/
theorem mkWord_fields {w : Word} (h : mbzOf w = 0) : mkWord (opcOf w) (opdOf w) = w := by
  have h' := congrArg BitVec.toNat h
  rw [mbzOf_toNat] at h'
  have := w.isLt
  refine BitVec.eq_of_toNat_eq ?_
  rw [mkWord_toNat, opcOf_toNat, opdOf_toNat]
  simp at h'
  omega

@[simp] theorem opdHi16_mkOpd (a : BitVec 16) (b : BitVec 8) : opdHi16 (mkOpd a b) = a := by
  have := b.isLt
  exact BitVec.eq_of_toNat_eq (by rw [opdHi16_toNat, mkOpd_toNat]; omega)

@[simp] theorem opdLo8_mkOpd (a : BitVec 16) (b : BitVec 8) : opdLo8 (mkOpd a b) = b := by
  have := b.isLt
  exact BitVec.eq_of_toNat_eq (by rw [opdLo8_toNat, mkOpd_toNat]; omega)

@[simp] theorem opdHi8_mkOpd (x y b : BitVec 8) : opdHi8 (mkOpd (x ++ y) b) = x := by
  have := b.isLt; have := y.isLt
  exact BitVec.eq_of_toNat_eq (by rw [opdHi8_toNat, mkOpd_toNat, toNat_append_add]; omega)

@[simp] theorem opdMid8_mkOpd (x y b : BitVec 8) : opdMid8 (mkOpd (x ++ y) b) = y := by
  have := b.isLt; have := y.isLt
  exact BitVec.eq_of_toNat_eq (by rw [opdMid8_toNat, mkOpd_toNat, toNat_append_add]; omega)

theorem mkOpd_fields (d : BitVec 24) : mkOpd (opdHi16 d) (opdLo8 d) = d :=
  BitVec.eq_of_toNat_eq (by rw [mkOpd_toNat, opdHi16_toNat, opdLo8_toNat]; omega)

theorem opdHi16_eq_append (d : BitVec 24) : opdHi16 d = opdHi8 d ++ opdMid8 d :=
  BitVec.eq_of_toNat_eq (by rw [toNat_append_add, opdHi16_toNat, opdHi8_toNat, opdMid8_toNat]; omega)

theorem mkPpuArg_toNat (k : BitVec 3) (v : BitVec 8) : (mkPpuArg k v).toNat = k.toNat * 2 ^ 13 + v.toNat :=
  (toNat_append_add k (0#5 ++ v)).trans (by rw [toNat_append_add]; simp)

theorem argK_toNat (a : BitVec 16) : (argK a).toNat = a.toNat / 2 ^ 13 := by
  have := a.isLt
  simp [argK, BitVec.extractLsb'_toNat, Nat.shiftRight_eq_div_pow]; omega

theorem argGap_toNat (a : BitVec 16) : (argGap a).toNat = a.toNat / 2 ^ 8 % 2 ^ 5 := by
  simp [argGap, BitVec.extractLsb'_toNat, Nat.shiftRight_eq_div_pow]

theorem argVal_toNat (a : BitVec 16) : (argVal a).toNat = a.toNat % 2 ^ 8 := by
  simp [argVal, BitVec.extractLsb'_toNat]

@[simp] theorem argK_mkPpuArg (k : BitVec 3) (v : BitVec 8) : argK (mkPpuArg k v) = k := by
  have := v.isLt
  exact BitVec.eq_of_toNat_eq (by rw [argK_toNat, mkPpuArg_toNat]; omega)

@[simp] theorem argGap_mkPpuArg (k : BitVec 3) (v : BitVec 8) : argGap (mkPpuArg k v) = 0 := by
  have := v.isLt
  exact BitVec.eq_of_toNat_eq (by rw [argGap_toNat, mkPpuArg_toNat]; simp; omega)

@[simp] theorem argVal_mkPpuArg (k : BitVec 3) (v : BitVec 8) : argVal (mkPpuArg k v) = v := by
  have := v.isLt
  exact BitVec.eq_of_toNat_eq (by rw [argVal_toNat, mkPpuArg_toNat]; omega)

theorem mkPpuArg_fields {a : BitVec 16} (h : argGap a = 0) : mkPpuArg (argK a) (argVal a) = a := by
  have h' := congrArg BitVec.toNat h
  rw [argGap_toNat] at h'
  have := a.isLt
  refine BitVec.eq_of_toNat_eq ?_
  rw [mkPpuArg_toNat, argK_toNat, argVal_toNat]
  simp at h'
  omega

@[simp] theorem ofIndex_index (k : PpuSetter) : PpuSetter.ofIndex k.index.toNat = some k := by cases k <;> rfl

theorem index_of_ofIndex {n : BitVec 3} {k : PpuSetter} (h : PpuSetter.ofIndex n.toNat = some k) : k.index = n := by
  revert k; revert n; decide

theorem low_high_append (a b : Sample) :
    (BitVec.extractLsb' 0 16 (b ++ a : Word) = a) ∧ (BitVec.extractLsb' 16 16 (b ++ a : Word) = b) := by
  have ha := a.isLt
  have hb := b.isLt
  have h : (b ++ a : Word).toNat = b.toNat * 2 ^ 16 + a.toNat := toNat_append_add b a
  constructor <;> apply BitVec.eq_of_toNat_eq <;>
    rw [BitVec.extractLsb'_toNat, h] <;> simp [Nat.shiftRight_eq_div_pow] <;> omega

theorem append_high_low (w : Word) : (w.extractLsb' 16 16 ++ w.extractLsb' 0 16 : Word) = w := by
  have hw := w.isLt
  have h := toNat_append_add (w.extractLsb' 16 16) (w.extractLsb' 0 16)
  apply BitVec.eq_of_toNat_eq
  refine h.trans ?_
  simp [BitVec.extractLsb'_toNat, Nat.shiftRight_eq_div_pow]
  omega

theorem unpack_zero (ws : List Word) : unpackSamples 0 ws = if ws = [] then .ok [] else .error .payloadLength := by
  cases ws <;> rfl

theorem unpack_add_two (n : Nat) (w : Word) (ws : List Word) : unpackSamples (n + 2) (w :: ws) =
    match unpackSamples n ws with
    | .error e => .error e
    | .ok l => .ok (w.extractLsb' 0 16 :: w.extractLsb' 16 16 :: l) := rfl

theorem unpack_one (w : Word) (ws : List Word) : unpackSamples 1 (w :: ws) =
    if ws ≠ [] then .error .payloadLength
    else if w.extractLsb' 16 16 ≠ 0 then .error .payloadHighHalf
    else .ok [w.extractLsb' 0 16] := rfl

/-- Unpacking packed samples gives them back (R78). -/
theorem unpack_pack (l : List Sample) : unpackSamples l.length (packSamples l) = .ok l := by
  match l with
  | [] => rfl
  | [a] =>
    have h := low_high_append a 0#16
    simp only [packSamples, List.length_singleton, unpack_one, h.1, h.2]
    simp
  | a :: b :: rest =>
    have h := low_high_append a b
    simp only [packSamples, List.length_cons, unpack_add_two, unpack_pack rest, h.1, h.2]

/-- Packing what was unpacked gives the payload back, and the count is the number of samples (R78). -/
theorem pack_unpack {n : Nat} {ws : List Word} {l : List Sample} (h : unpackSamples n ws = .ok l) :
    l.length = n ∧ packSamples l = ws := by
  induction n using Nat.strong_induction_on generalizing ws l with
  | _ n ih =>
    match n, ws with
    | 0, [] => simp [unpackSamples] at h; subst h; exact ⟨rfl, rfl⟩
    | 0, _ :: _ => simp [unpackSamples] at h
    | n + 1, [] => cases n <;> simp [unpackSamples] at h
    | 1, w :: ws =>
      rw [unpack_one] at h
      split at h
      · cases h
      · split at h
        · cases h
        · rename_i hws hhi
          simp at hws hhi h
          subst hws h
          refine ⟨rfl, ?_⟩
          have := append_high_low w
          rw [hhi] at this
          simpa [packSamples] using this
    | n + 2, w :: ws =>
      rw [unpack_add_two] at h
      split at h
      · cases h
      · rename_i l' hl'
        obtain ⟨h1, h2⟩ := ih n (by omega) hl'
        simp at h
        subst h
        refine ⟨by simp [h1], ?_⟩
        simp only [packSamples, h2, append_high_low]

/-! The address rows. -/

theorem setWidth_eq {k : Nat} {a : Addr} {off : BitVec k} (h : a.toNat % 2 ^ k = off.toNat) : a.setWidth k = off :=
  BitVec.eq_of_toNat_eq (by rw [BitVec.toNat_setWidth, h])

theorem ite_elim {α : Type} {P : α → Prop} {c : Prop} [Decidable c] {x y : α} (hx : c → P x) (hy : ¬c → P y) :
    P (if c then x else y) := by split <;> simp_all

/-- The row of an address names it again (R74: the rows cover every address). -/
theorem rowAddr_rowOf (a : Addr) : rowAddr (rowOf a) = a := by
  have ha := a.isLt
  refine BitVec.eq_of_toNat_eq ?_
  unfold rowOf
  repeat' refine ite_elim (P := fun r => (rowAddr r).toNat = a.toNat) (fun _ => ?_) (fun _ => ?_)
  all_goals (simp only [rowAddr, BitVec.toNat_add, BitVec.toNat_setWidth, BitVec.toNat_ofNat]; omega)

/-- The address of a row and an offset falls in that row (R74: the rows are disjoint). -/
theorem rowOf_rowAddr (r : Row) : rowOf (rowAddr r) = r := by
  cases r with
  | port1Strobe => rfl
  | port2 => rfl
  | _ off =>
    have h := off.isLt
    generalize ha : rowAddr _ = a
    have hn := congrArg BitVec.toNat ha
    simp only [rowAddr, BitVec.toNat_add, BitVec.toNat_setWidth, BitVec.toNat_ofNat] at hn
    clear ha
    unfold rowOf
    repeat rw [if_neg (by omega)]
    first
      | (rw [if_pos (by omega)]; congr 1; exact setWidth_eq (by omega))
      | (congr 1; exact setWidth_eq (by omega))

end Sys2Proof
end

