-- ==== Sys2Proof/Laws/Latch.lean ====
section
/-! SUPPORT. What the strobe write and the port reads leave, as one record each (41_input_latch.md R111 to R114,
42_light_gun.md R133), and the bits of what they compute. -/

namespace Sys2Proof.Machine

variable (s : State)

/-- The data bit is bit 0 of a port byte, bit 6 is set, no other. -/
theorem portByte_getLsbD (b : Bool) (i : Nat) (hi : i < 8) :
    (portByte b).getLsbD i = (decide (i = 6) || (decide (i = 0) && b)) := by
  revert b i; decide

theorem shiftIn_getLsbD (r : Byte) (i : Nat) (hi : i < 8) :
    (shiftIn r).getLsbD i = (decide (i = 7) || r.getLsbD (i + 1)) := by
  have h80 : ∀ j, j < 8 → (0x80#8).getLsbD j = decide (j = 7) := by decide
  simp [shiftIn, h80 i hi, BitVec.getLsbD_ushiftRight, Nat.add_comm]

theorem gunByte_getLsbD (dc : Byte) (t l : Bool) (i : Nat) (hi : i < 8) :
    (gunByte dc t l).getLsbD i =
      if i = 6 then true else if i = 4 then t else if i = 3 then !l else dc.getLsbD i := by
  simp only [gunByte, Config.openBus, Config.gunDontCare, BitVec.getLsbD_or, BitVec.getLsbD_and]
  cases t <;> cases l <;> interval_cases i <;> simp

/-- The mask bit of a source. -/
theorem irqBit_getLsbD (src : Byte) (j : Nat) : (irqBit src).getLsbD j = decide (j = src.toNat) := by
  have h := src.isLt
  rw [irqBit, ← BitVec.twoPow_eq, BitVec.getLsbD_twoPow]
  by_cases hj : j = src.toNat
  · subst hj; simp; omega
  · simp [hj]; omega

/-- A strobe write: the new strobe, and both registers reloaded where the strobe was or becomes 1 (R112). -/
theorem writeStrobe_eq (v : Byte) : writeStrobe v s = { s with
    strobe := strobeBit v
    shift1 := if s.strobe || strobeBit v then s.snapshot.extractLsb' 0 8 else s.shift1
    shift2 := if (s.strobe || strobeBit v) && !s.connected then s.snapshot.extractLsb' 8 8 else s.shift2
    result := .none } := by
  unfold writeStrobe reload
  by_cases h : (s.strobe || strobeBit v) = true
  · cases hc : s.connected <;> simp [h]
  · have h' := Bool.eq_false_iff.2 h
    simp [h']

/-- A port-1 read in Latching (R113). -/
theorem readPort1_latching (h : s.strobe = true) : readPort1 s = { s with
    shift1 := s.snapshot.extractLsb' 0 8
    shift2 := if s.connected then s.shift2 else s.snapshot.extractLsb' 8 8
    result := .byte (portByte (s.snapshot.getLsbD 0)) } := by
  simp [readPort1, h, reload]

/-- A port-1 read in Shifting (R113). -/
theorem readPort1_shifting (h : s.strobe = false) : readPort1 s = { s with
    shift1 := shiftIn s.shift1, result := .byte (portByte (s.shift1.getLsbD 0)) } := by
  simp [readPort1, h]

/-- A port-2 read in Latching with no light gun (R114). -/
theorem readPort2_latching (hc : s.connected = false) (h : s.strobe = true) : readPort2 s = { s with
    shift1 := s.snapshot.extractLsb' 0 8
    shift2 := s.snapshot.extractLsb' 8 8
    result := .byte (portByte (s.snapshot.getLsbD 8)) } := by
  simp [readPort2, readShift2, hc, h, reload]

/-- A port-2 read in Shifting with no light gun (R114). -/
theorem readPort2_shifting (hc : s.connected = false) (h : s.strobe = false) : readPort2 s = { s with
    shift2 := shiftIn s.shift2, result := .byte (portByte (s.shift2.getLsbD 0)) } := by
  simp [readPort2, readShift2, hc, h]

/-- A port-2 read with a light gun connected (R133). -/
theorem readPort2_gun (hc : s.connected = true) : readPort2 s = { s with
    result := .byte (gunByte s.cfg.gunDc s.trigger s.lightSensed) } := by
  simp [readPort2, readGun, hc]

/-- A port-1 read changes only the shift registers and the result. -/
theorem readPort1_changes : ∃ a1 a2 q, readPort1 s = { s with shift1 := a1, shift2 := a2, result := q } := by
  by_cases h : s.strobe = true
  · exact ⟨_, _, _, readPort1_latching s h⟩
  · exact ⟨_, _, _, readPort1_shifting s (Bool.eq_false_iff.2 h)⟩

/-- A port-2 read changes only the shift registers and the result. -/
theorem readPort2_changes : ∃ a1 a2 q, readPort2 s = { s with shift1 := a1, shift2 := a2, result := q } := by
  by_cases hc : s.connected = true
  · exact ⟨_, _, _, readPort2_gun s hc⟩
  · by_cases h : s.strobe = true
    · exact ⟨_, _, _, readPort2_latching s (Bool.eq_false_iff.2 hc) h⟩
    · exact ⟨_, _, _, readPort2_shifting s (Bool.eq_false_iff.2 hc) (Bool.eq_false_iff.2 h)⟩

end Sys2Proof.Machine
end

