-- ==== Sys2Proof/Laws/Exec.lean ====
section
/-! SUPPORT. Everything an operation can do, said once: a bus operation forwards, reads a port or writes the strobe, and
every other operation has one form. -/

namespace Sys2Proof.Machine

variable {s t : State} {i : Instr}

/-- The operations of the Bus (40_bus.md). -/
def busOp : Instr → Bool
  | .cpur _ | .cpuw _ _ | .ppur _ | .ppuw _ _ | .setnmi _ | .ppucfg _ _
  | .cpurLow0000 _ | .cpuwLow0000 _ _ | .cpurPpu2000 _ | .cpuwPpu2000 _ _ | .cpurIo4000 _ | .cpuwIo4000 _ _
  | .cpurIo4010 _ | .cpuwIo4010 _ _ | .cpurIo4014 _ | .cpuwIo4014 _ _ | .cpurPort1 | .cpuwStrobe _ | .cpurPort2
  | .cpuwPort2 _ | .cpurUnmapped4018 _ | .cpuwUnmapped4018 _ _ | .cpurCart4020 _ | .cpuwCart4020 _ _
  | .cpurCart4040 _ | .cpuwCart4040 _ _ | .cpurCart4080 _ | .cpuwCart4080 _ _ | .cpurCart4100 _ | .cpuwCart4100 _ _
  | .cpurCart4200 _ | .cpuwCart4200 _ _ | .cpurCart4400 _ | .cpuwCart4400 _ _ | .cpurCart4800 _ | .cpuwCart4800 _ _
  | .cpurCart5000 _ | .cpuwCart5000 _ _ | .cpurCart6000 _ | .cpuwCart6000 _ _ | .cpurCart8000 _ | .cpuwCart8000 _ _ => true
  | .snap _ | .gundn _ _ | .gunup | .guntg | .irqa _ | .irqk _ | .irqv | .fpub _ | .facq | .apush _ | .apull _ | .reset
  | .stop | .avail => false

/-- Only the model's own record of calls, conditions, results and oracle answers changed. -/
def forwards (s t : State) : Prop :=
  t = { s with calls := t.calls, raised := t.raised, result := t.result, draws := t.draws }

theorem query_forwards (c : Call) : forwards s (query c s) := rfl
theorem notify_forwards (c : Call) : forwards s (notify c s) := rfl
theorem readUnmapped_forwards (a : Addr) : forwards s (readUnmapped a s) := rfl
theorem writeUnmapped_forwards (a : Addr) : forwards s (writeUnmapped a s) := rfl

theorem readLow_forwards (a : Addr) : forwards s (readLow a s) := by
  unfold readLow; split
  · exact query_forwards _
  · exact readUnmapped_forwards _

theorem writeLow_forwards (a : Addr) (v : Byte) : forwards s (writeLow a v s) := by
  unfold writeLow; split
  · exact notify_forwards _
  · exact writeUnmapped_forwards _

/-- A CPU-side read is a port read, or only forwards. -/
theorem busRead_cases (a : Addr) : (a = s.cfg.map.port1Addr ∧ busRead a s = readPort1 s) ∨
    (a = s.cfg.map.port2Addr ∧ busRead a s = readPort2 s) ∨ forwards s (busRead a s) := by
  unfold busRead
  split
  · exact .inr (.inr (readLow_forwards a))
  · exact .inr (.inr (query_forwards _))
  · split
    · exact .inl ⟨by assumption, rfl⟩
    · split
      · exact .inr (.inl ⟨by assumption, rfl⟩)
      · exact .inr (.inr (query_forwards _))
  · exact .inr (.inr (query_forwards _))
  · exact .inr (.inr (readUnmapped_forwards a))

/-- A CPU-side write is a strobe write, or only forwards. -/
theorem busWrite_cases (a : Addr) (v : Byte) :
    (a = s.cfg.map.strobeAddr ∧ busWrite a v s = writeStrobe v s) ∨ forwards s (busWrite a v s) := by
  unfold busWrite
  split
  · exact .inr (writeLow_forwards a v)
  · exact .inr (notify_forwards _)
  · split
    · exact .inl ⟨by assumption, rfl⟩
    · exact .inr (notify_forwards _)
  · exact .inr (notify_forwards _)
  · exact .inr (writeUnmapped_forwards a)

/-- What an operation that completes did to the state: one case a form. -/
inductive Effect (s : State) : Instr → State → Prop where
  | forward (i : Instr) (t : State) (hb : busOp i = true) (h : forwards s t) : Effect s i t
  | port1 (i : Instr) (h : port1Read s i) : Effect s i (readPort1 s)
  | port2 (i : Instr) (h : port2Read s i) : Effect s i (readPort2 s)
  | strobe (i : Instr) (v : Byte) (h : i = .cpuw s.cfg.map.strobeAddr v ∨ i = .cpuwStrobe v) : Effect s i (writeStrobe v s)
  | snap (b : BitVec 16) : Effect s (.snap b) { s with snapshot := b, result := .none }
  | gundn (x y : Byte) (hy : y.toNat ≤ 239) :
      Effect s (.gundn x y) { s with gunX := x, gunY := y, trigger := true, result := .none }
  | gunup : Effect s .gunup { s with
      trigger := false
      lightSensed := Config.oracleBit s.draws
      calls := s.calls ++ [.checkTargetHit s.gunX s.gunY]
      draws := s.draws + 1
      result := .none }
  | guntg : Effect s .guntg (raise .peripheralToggle
      { s with connected := !s.connected, shift1 := 0x00, shift2 := 0x00, result := .none })
  | irqa (src : Byte) (h : src.toNat < s.cfg.irqW) :
      Effect s (.irqa src) { s with irq := s.irq ||| irqBit src, result := .none }
  | irqk (src : Byte) (h : src.toNat < s.cfg.irqW) :
      Effect s (.irqk src) { s with irq := s.irq &&& ~~~irqBit src, result := .none }
  | irqv : Effect s .irqv (giveResult (.mask s.irq) s)
  | fpub (f : BitVec 24) (F : Frame) (hF : frameOf s f = some F) (h : s.fprod = none) :
      Effect s (.fpub f) (publish F s)
  | facq (h : s.fcons = none) : Effect s .facq (acquire s)
  | apush (xs : List Sample) (h : s.aprod = none) : Effect s (.apush xs) (pushSamples xs s)
  | apull (n : Nat) (h : s.acons = none) : Effect s (.apull n) (pullSamples n s)
  | reset : Effect s .reset (resetState s)
  | stop : Effect s .stop { s with running := false, result := .none }
  | avail : Effect s .avail (giveResult (.count (availOf s.cfg s.wr s.rd)) s)

theorem busRead_effect (a : Addr) : Effect s (.cpur a) (busRead a s) := by
  rcases busRead_cases (s := s) a with ⟨h, e⟩ | ⟨h, e⟩ | h
  · rw [e]; exact .port1 _ (.inl (by rw [h]))
  · rw [e]; exact .port2 _ (.inl (by rw [h]))
  · exact .forward _ _ rfl h

theorem busWrite_effect (a : Addr) (v : Byte) : Effect s (.cpuw a v) (busWrite a v s) := by
  rcases busWrite_cases (s := s) a v with ⟨h, e⟩ | h
  · rw [e]; exact .strobe _ v (.inl (by rw [h]))
  · exact .forward _ _ rfl h

theorem Effect.of_next {u : State} (he : Effect s i u)
    (h : (Host.Outcome.next u : Host.Outcome State Fault Refusal) = .next t) : Effect s i t := by
  cases h; exact he

/-- FPUB answers only with its frame in the table and no publication in progress. -/
theorem exec_fpub_next {f : BitVec 24} (h : exec (.fpub f) s = .next t) :
    ∃ F, frameOf s f = some F ∧ s.fprod = none ∧ t = publish F s := by
  simp only [exec, execFpub] at h
  split at h
  · cases h
  · split at h
    · cases h
    · cases h
      exact ⟨_, by assumption, Option.not_isSome_iff_eq_none.1 (by assumption), rfl⟩

/-- FACQ answers only with no acquisition in progress. -/
theorem exec_facq_next (h : exec .facq s = .next t) : s.fcons = none ∧ t = acquire s := by
  simp only [exec, execFacq] at h
  split at h
  · cases h
  · cases h
    exact ⟨Option.not_isSome_iff_eq_none.1 (by assumption), rfl⟩

/-- APUSH answers only with no push in progress. -/
theorem exec_apush_next {xs : List Sample} (h : exec (.apush xs) s = .next t) : s.aprod = none ∧ t = pushSamples xs s := by
  simp only [exec, execApush] at h
  split at h
  · cases h
  · cases h
    exact ⟨Option.not_isSome_iff_eq_none.1 (by assumption), rfl⟩

/-- APULL answers only with no pull in progress. -/
theorem exec_apull_next {n : Nat} (h : exec (.apull n) s = .next t) : s.acons = none ∧ t = pullSamples n s := by
  simp only [exec, execApull] at h
  split at h
  · cases h
  · cases h
    exact ⟨Option.not_isSome_iff_eq_none.1 (by assumption), rfl⟩

/-- What an operation that answers a next state did. -/
theorem exec_effect (h : exec i s = .next t) : Effect s i t := by
  cases i with
  | cpur a => exact (busRead_effect a).of_next h
  | cpuw a v => exact (busWrite_effect a v).of_next h
  | ppur a => exact (Effect.forward _ _ rfl (query_forwards _)).of_next h
  | ppuw a v => exact (Effect.forward _ _ rfl (notify_forwards _)).of_next h
  | snap b => exact (Effect.snap b).of_next h
  | gundn x y =>
    simp only [exec, execGundn] at h
    split at h
    · exact (Effect.gundn x y (by assumption)).of_next h
    · cases h
  | gunup => exact Effect.gunup.of_next h
  | guntg => exact Effect.guntg.of_next h
  | irqa src =>
    simp only [exec, execIrqa] at h
    split at h
    · exact (Effect.irqa src (by assumption)).of_next h
    · cases h
  | irqk src =>
    simp only [exec, execIrqk] at h
    split at h
    · exact (Effect.irqk src (by assumption)).of_next h
    · cases h
  | irqv => exact Effect.irqv.of_next h
  | fpub f =>
    obtain ⟨F, hF, hp, rfl⟩ := exec_fpub_next h
    exact .fpub f F hF hp
  | facq =>
    obtain ⟨hc, rfl⟩ := exec_facq_next h
    exact .facq hc
  | apush xs =>
    obtain ⟨hp, rfl⟩ := exec_apush_next h
    exact .apush xs hp
  | apull n =>
    obtain ⟨hc, rfl⟩ := exec_apull_next h
    exact .apull n hc
  | reset => exact Effect.reset.of_next h
  | stop => exact Effect.stop.of_next h
  | avail => exact Effect.avail.of_next h
  | setnmi b => exact (Effect.forward _ _ rfl (notify_forwards _)).of_next h
  | ppucfg k v => exact (Effect.forward _ _ rfl (notify_forwards _)).of_next h
  | cpurLow0000 off => exact (Effect.forward _ _ rfl (readLow_forwards _)).of_next h
  | cpuwLow0000 off v => exact (Effect.forward _ _ rfl (writeLow_forwards _ v)).of_next h
  | cpurPort1 => exact (Effect.port1 _ (.inr rfl)).of_next h
  | cpuwStrobe v => exact (Effect.strobe _ v (.inr rfl)).of_next h
  | cpurPort2 => exact (Effect.port2 _ (.inr rfl)).of_next h
  | cpurUnmapped4018 off => exact (Effect.forward _ _ rfl (readUnmapped_forwards _)).of_next h
  | cpuwUnmapped4018 off v => exact (Effect.forward _ _ rfl (writeUnmapped_forwards _)).of_next h
  | cpurPpu2000 off | cpurIo4000 off | cpurIo4010 off | cpurIo4014 off | cpurCart4020 off | cpurCart4040 off
  | cpurCart4080 off | cpurCart4100 off | cpurCart4200 off | cpurCart4400 off | cpurCart4800 off
  | cpurCart5000 off | cpurCart6000 off | cpurCart8000 off => exact (Effect.forward _ _ rfl (query_forwards _)).of_next h
  | cpuwPpu2000 off v | cpuwIo4000 off v | cpuwIo4010 off v | cpuwIo4014 off v | cpuwCart4020 off v
  | cpuwCart4040 off v | cpuwCart4080 off v | cpuwCart4100 off v | cpuwCart4200 off v | cpuwCart4400 off v
  | cpuwCart4800 off v | cpuwCart5000 off v | cpuwCart6000 off v | cpuwCart8000 off v =>
    exact (Effect.forward _ _ rfl (notify_forwards _)).of_next h
  | cpuwPort2 v => exact (Effect.forward _ _ rfl (notify_forwards _)).of_next h

/-- A bus operation changes only the strobe, the shift registers and the model's own record. -/
theorem Effect.of_busOp (he : Effect s i t) (hb : busOp i = true) : ∃ st a1 a2 c r q d, t =
    { s with strobe := st, shift1 := a1, shift2 := a2, calls := c, raised := r, result := q, draws := d } := by
  cases he with
  | forward _ _ _ h => exact ⟨s.strobe, s.shift1, s.shift2, _, _, _, _, h⟩
  | port1 _ _ =>
    obtain ⟨a1, a2, q, h⟩ := readPort1_changes s
    exact ⟨s.strobe, a1, a2, s.calls, s.raised, q, s.draws, h⟩
  | port2 _ _ =>
    obtain ⟨a1, a2, q, h⟩ := readPort2_changes s
    exact ⟨s.strobe, a1, a2, s.calls, s.raised, q, s.draws, h⟩
  | strobe _ v _ => exact ⟨_, _, _, s.calls, s.raised, _, s.draws, writeStrobe_eq s v⟩
  | _ => cases hb

/-- No operation but FPUB, FACQ and RESET touches the FrameChannel (10_state.md R19, R20). -/
theorem Effect.frame_fields (he : Effect s i t) (h1 : ∀ f, i ≠ .fpub f) (h2 : i ≠ .facq) (h3 : i ≠ .reset) :
    t.slot = s.slot ∧ t.flock = s.flock ∧ t.fprod = s.fprod ∧ t.fcons = s.fcons := by
  by_cases hb : busOp i = true
  · obtain ⟨_, _, _, _, _, _, _, rfl⟩ := he.of_busOp hb
    exact ⟨rfl, rfl, rfl, rfl⟩
  · cases he with
    | forward _ _ hf _ => exact absurd hf hb
    | port1 _ h => rcases h with rfl | rfl <;> exact absurd rfl hb
    | port2 _ h => rcases h with rfl | rfl <;> exact absurd rfl hb
    | strobe _ v h => rcases h with rfl | rfl <;> exact absurd rfl hb
    | fpub f => exact absurd rfl (h1 f)
    | facq => exact absurd rfl h2
    | reset => exact absurd rfl h3
    | apush xs => unfold pushSamples publishSamples overwriteOldest; dsimp only; split <;> split <;> exact ⟨rfl, rfl, rfl, rfl⟩
    | apull n => unfold pullSamples; split <;> exact ⟨rfl, rfl, rfl, rfl⟩
    | _ => exact ⟨rfl, rfl, rfl, rfl⟩

/-- No operation but APUSH, APULL and RESET touches the AudioRing (10_state.md R21 to R24). -/
theorem Effect.ring_fields (he : Effect s i t) (h1 : ∀ xs, i ≠ .apush xs) (h2 : ∀ n, i ≠ .apull n) (h3 : i ≠ .reset) :
    t.buf = s.buf ∧ t.wr = s.wr ∧ t.rd = s.rd ∧ t.overrunDropped = s.overrunDropped ∧ t.aprod = s.aprod ∧
      t.acons = s.acons := by
  by_cases hb : busOp i = true
  · obtain ⟨_, _, _, _, _, _, _, rfl⟩ := he.of_busOp hb
    exact ⟨rfl, rfl, rfl, rfl, rfl, rfl⟩
  · cases he with
    | forward _ _ hf _ => exact absurd hf hb
    | port1 _ h => rcases h with rfl | rfl <;> exact absurd rfl hb
    | port2 _ h => rcases h with rfl | rfl <;> exact absurd rfl hb
    | strobe _ v h => rcases h with rfl | rfl <;> exact absurd rfl hb
    | apush xs => exact absurd rfl (h1 xs)
    | apull n => exact absurd rfl (h2 n)
    | reset => exact absurd rfl h3
    | fpub f F => unfold publish; split <;> exact ⟨rfl, rfl, rfl, rfl, rfl, rfl⟩
    | facq => unfold acquire; split <;> exact ⟨rfl, rfl, rfl, rfl, rfl, rfl⟩
    | _ => exact ⟨rfl, rfl, rfl, rfl, rfl, rfl⟩

/-- No operation changes the parameters, the frame table or what is presented (00_scope.md R9, 10_state.md R27). -/
theorem Effect.fixed_fields (he : Effect s i t) : t.cfg = s.cfg ∧ t.frames = s.frames ∧ t.inbox = s.inbox := by
  by_cases hb : busOp i = true
  · obtain ⟨_, _, _, _, _, _, _, rfl⟩ := he.of_busOp hb
    exact ⟨rfl, rfl, rfl⟩
  · cases he with
    | forward _ _ hf _ => exact absurd hf hb
    | port1 _ h => rcases h with rfl | rfl <;> exact absurd rfl hb
    | port2 _ h => rcases h with rfl | rfl <;> exact absurd rfl hb
    | strobe _ v h => rcases h with rfl | rfl <;> exact absurd rfl hb
    | apush xs => unfold pushSamples publishSamples overwriteOldest; dsimp only; split <;> split <;> exact ⟨rfl, rfl, rfl⟩
    | apull n => unfold pullSamples; split <;> exact ⟨rfl, rfl, rfl⟩
    | fpub f F => unfold publish; split <;> exact ⟨rfl, rfl, rfl⟩
    | facq => unfold acquire; split <;> exact ⟨rfl, rfl, rfl⟩
    | _ => exact ⟨rfl, rfl, rfl⟩

/-- No operation but RESET ends a loop or begins a run, and none but STOP and RESET writes the running flag (10_state.md
R25, 60_exceptions.md R216). -/
theorem Effect.run_fields (he : Effect s i t) (h1 : i ≠ .reset) :
    t.started = s.started ∧ t.emulationEnded = s.emulationEnded ∧ t.presentationEnded = s.presentationEnded ∧
      (i ≠ .stop → t.running = s.running) := by
  by_cases hb : busOp i = true
  · obtain ⟨_, _, _, _, _, _, _, rfl⟩ := he.of_busOp hb
    exact ⟨rfl, rfl, rfl, fun _ => rfl⟩
  · cases he with
    | forward _ _ hf _ => exact absurd hf hb
    | port1 _ h => rcases h with rfl | rfl <;> exact absurd rfl hb
    | port2 _ h => rcases h with rfl | rfl <;> exact absurd rfl hb
    | strobe _ v h => rcases h with rfl | rfl <;> exact absurd rfl hb
    | reset => exact absurd rfl h1
    | stop => exact ⟨rfl, rfl, rfl, fun h => absurd rfl h⟩
    | apush xs =>
      unfold pushSamples publishSamples overwriteOldest
      dsimp only
      split <;> split <;> exact ⟨rfl, rfl, rfl, fun _ => rfl⟩
    | apull n => unfold pullSamples; split <;> exact ⟨rfl, rfl, rfl, fun _ => rfl⟩
    | fpub f F => unfold publish; split <;> exact ⟨rfl, rfl, rfl, fun _ => rfl⟩
    | facq => unfold acquire; split <;> exact ⟨rfl, rfl, rfl, fun _ => rfl⟩
    | _ => exact ⟨rfl, rfl, rfl, fun _ => rfl⟩

/-- The gun and the mask change under their own operations and RESET only (10_state.md R14 to R18). -/
theorem Effect.gun_irq_fields (he : Effect s i t) (h1 : ∀ x y, i ≠ .gundn x y) (h2 : ∀ src, i ≠ .irqa src)
    (h3 : ∀ src, i ≠ .irqk src) (h4 : i ≠ .reset) : t.gunX = s.gunX ∧ t.gunY = s.gunY ∧ t.irq = s.irq := by
  by_cases hb : busOp i = true
  · obtain ⟨_, _, _, _, _, _, _, rfl⟩ := he.of_busOp hb
    exact ⟨rfl, rfl, rfl⟩
  · cases he with
    | forward _ _ hf _ => exact absurd hf hb
    | port1 _ h => rcases h with rfl | rfl <;> exact absurd rfl hb
    | port2 _ h => rcases h with rfl | rfl <;> exact absurd rfl hb
    | strobe _ v h => rcases h with rfl | rfl <;> exact absurd rfl hb
    | gundn x y => exact absurd rfl (h1 x y)
    | irqa src => exact absurd rfl (h2 src)
    | irqk src => exact absurd rfl (h3 src)
    | reset => exact absurd rfl h4
    | apush xs => unfold pushSamples publishSamples overwriteOldest; dsimp only; split <;> split <;> exact ⟨rfl, rfl, rfl⟩
    | apull n => unfold pullSamples; split <;> exact ⟨rfl, rfl, rfl⟩
    | fpub f F => unfold publish; split <;> exact ⟨rfl, rfl, rfl⟩
    | facq => unfold acquire; split <;> exact ⟨rfl, rfl, rfl⟩
    | _ => exact ⟨rfl, rfl, rfl⟩

end Sys2Proof.Machine
end

