-- ==== Sys2Proof/Laws/Fair.lean ====
section
/-! SUPPORT. How a weakly fair run gets on: a measure that the steps of one enabled thread lower reaches its end. -/

namespace Sys2Proof.Machine

/-- While `P` holds the thread has an enabled step; no entry breaks `P` or raises `m` before `Q`, and each step of the
thread lowers `m`.  Then a weakly fair run reaches `Q`. -/
theorem weaklyFair_eventually {schedule : Nat → Event} {states : Nat → State} {th : Thread} {P Q : State → Prop}
    {m : State → Nat} (hfair : weaklyFair schedule states) (henabled : ∀ s, P s → threadEnabled s th)
    (hkeep : ∀ k, P (states k) → ¬Q (states (k + 1)) → P (states (k + 1)) ∧ m (states (k + 1)) ≤ m (states k) ∧
      (stepOf (states k) th (schedule k) → m (states (k + 1)) < m (states k)))
    (k : Nat) (hp : P (states k)) : ∃ j, k ≤ j ∧ Q (states j) := by
  induction hm : m (states k) using Nat.strongRecOn generalizing k with
  | ind v ih =>
    by_contra hq
    push Not at hq
    have hkept : ∀ d, P (states (k + d)) ∧ m (states (k + d)) ≤ m (states k) := by
      intro d
      induction d with
      | zero => exact ⟨hp, le_rfl⟩
      | succ d hd =>
        obtain ⟨hP, hle, _⟩ := hkeep (k + d) hd.1 (hq (k + d + 1) (by omega))
        exact ⟨hP, hle.trans hd.2⟩
    obtain ⟨j, hkj, hstep⟩ := hfair th k fun j hj => henabled _ (Nat.add_sub_of_le hj ▸ (hkept (j - k)).1)
    have hj := Nat.add_sub_of_le hkj ▸ hkept (j - k)
    obtain ⟨hP, _, hlt⟩ := hkeep j hj.1 (hq (j + 1) (by omega))
    obtain ⟨i, hi, hQ⟩ := ih _ (hm ▸ (hlt hstep).trans_le hj.2) (j + 1) hP rfl
    exact hq i (by omega) hQ

end Sys2Proof.Machine
end

