-- ==== Sys2Proof/Laws/Memory.lean ====
section
/-! SUPPORT. Laws of the word memories: reads after writes and copies, and the canonical form every operation keeps. -/

namespace Sys2Proof.Machine

variable {w : Nat}

@[simp] theorem Memory.read_nil (i : Nat) : Memory.read ([] : Memory w) i = 0 := rfl

theorem Memory.wfFrom_mono {size lo lo' : Nat} {m : Memory w} (h : lo' ≤ lo)
    (hm : Memory.wfFrom size lo m = true) : Memory.wfFrom size lo' m = true := by
  cases m with
  | nil => rfl
  | cons c m => obtain ⟨j, u⟩ := c; simp [Memory.wfFrom] at hm ⊢; exact ⟨⟨⟨by omega, hm.1.1.2⟩, hm.1.2⟩, hm.2⟩

/-- Below the first index allowed nothing is listed. -/
theorem Memory.read_lt_of_wfFrom {size lo : Nat} {m : Memory w} (hm : Memory.wfFrom size lo m = true) {i : Nat}
    (hi : i < lo) : Memory.read m i = 0 := by
  induction m generalizing lo with
  | nil => rfl
  | cons c m ih =>
    obtain ⟨j, u⟩ := c
    simp [Memory.wfFrom] at hm
    have hij : i ≠ j := by omega
    simp only [Memory.read, hij, if_false]
    exact ih hm.2 (by omega)

/-- An index outside the memory reads as zero. -/
theorem Memory.read_ge_of_wfFrom {size lo : Nat} {m : Memory w} (hm : Memory.wfFrom size lo m = true) {i : Nat}
    (hi : size ≤ i) : Memory.read m i = 0 := by
  induction m generalizing lo with
  | nil => rfl
  | cons c m ih =>
    obtain ⟨j, u⟩ := c
    simp [Memory.wfFrom] at hm
    have hij : i ≠ j := by omega
    simp only [Memory.read, hij, if_false]
    exact ih hm.2

theorem Memory.read_ge {size : Nat} {m : Memory w} (hm : Memory.wf size m = true) {i : Nat} (hi : size ≤ i) :
    Memory.read m i = 0 := Memory.read_ge_of_wfFrom hm hi

theorem Memory.read_write_other {m : Memory w} {i j : Nat} {v : BitVec w} (h : j ≠ i) :
    Memory.read (Memory.write m i v) j = Memory.read m j := by
  induction m with
  | nil => unfold Memory.write; split <;> simp [Memory.read, h]
  | cons c m ih =>
    obtain ⟨k, u⟩ := c
    simp only [Memory.write]
    split
    · split <;> simp [Memory.read, h]
    · split
      · rename_i hik; subst hik; split <;> simp [Memory.read, h]
      · simp [Memory.read, ih]

theorem Memory.read_write_same_from {size lo : Nat} {m : Memory w} (hm : Memory.wfFrom size lo m = true) {i : Nat}
    {v : BitVec w} : Memory.read (Memory.write m i v) i = v := by
  induction m generalizing lo with
  | nil => unfold Memory.write; split <;> simp_all [Memory.read]
  | cons c m ih =>
    obtain ⟨k, u⟩ := c
    have hm' := hm
    simp [Memory.wfFrom] at hm
    simp only [Memory.write]
    split
    · rename_i hik
      split
      · rename_i hv
        have hne : i ≠ k := by omega
        simp only [Memory.read, hne, if_false]
        rw [Memory.read_lt_of_wfFrom hm.2 (by omega), hv]
      · simp [Memory.read]
    · split
      · rename_i hik; subst hik
        split
        · rename_i hv; rw [Memory.read_lt_of_wfFrom hm.2 (by omega), hv]
        · simp [Memory.read]
      · rename_i h1 h2
        simp only [Memory.read, h2, if_false]
        exact ih hm.2

/-- A read after a write to the same index gives the word written. -/
theorem Memory.read_write_same {size : Nat} {m : Memory w} (hm : Memory.wf size m = true) {i : Nat} {v : BitVec w} :
    Memory.read (Memory.write m i v) i = v := Memory.read_write_same_from hm

theorem Memory.wfFrom_write {size lo : Nat} {m : Memory w} (hm : Memory.wfFrom size lo m = true) {i : Nat}
    {v : BitVec w} (hlo : lo ≤ i) (hi : i < size) : Memory.wfFrom size lo (Memory.write m i v) = true := by
  induction m generalizing lo with
  | nil => unfold Memory.write; split <;> simp_all [Memory.wfFrom]
  | cons c m ih =>
    obtain ⟨k, u⟩ := c
    have hm' := hm
    simp [Memory.wfFrom] at hm
    simp only [Memory.write]
    split
    · rename_i hik
      split
      · exact hm'
      · rename_i hv; exact (by simpa [Memory.wfFrom, hlo, hi, hm.1.2, hm.2, hm.1.1.2, hik] using hv)
    · split
      · rename_i hik; subst hik
        split
        · exact Memory.wfFrom_mono (by omega) hm.2
        · rename_i hv; exact (by simpa [Memory.wfFrom, hlo, hi, hm.2] using hv)
      · rename_i h1 h2
        simp [Memory.wfFrom, hm.1.1, hm.1.2]
        exact ih hm.2 (by omega)

/-- A write keeps the canonical form. -/
theorem Memory.wf_write {size : Nat} {m : Memory w} (hm : Memory.wf size m = true) {i : Nat} {v : BitVec w}
    (hi : i < size) : Memory.wf size (Memory.write m i v) = true := Memory.wfFrom_write hm (Nat.zero_le i) hi

theorem Memory.read_append_of_lacks {m m' : Memory w} {i : Nat} (h : ∀ c ∈ m, c.1 ≠ i) :
    Memory.read (m ++ m') i = Memory.read m' i := by
  induction m with
  | nil => rfl
  | cons c m ih =>
    obtain ⟨k, u⟩ := c
    have hk : i ≠ k := fun e => h (k, u) (by simp) e.symm
    simp only [List.cons_append, Memory.read, hk, if_false]
    exact ih fun c hc => h c (by simp [hc])

theorem Memory.read_of_lacks {m : Memory w} {i : Nat} (h : ∀ c ∈ m, c.1 ≠ i) : Memory.read m i = 0 := by
  simpa using Memory.read_append_of_lacks (m' := []) h

/-- Where the second part lists nothing the first decides. -/
theorem Memory.read_append_left {m m' : Memory w} {i : Nat} (h : ∀ c ∈ m', c.1 ≠ i) :
    Memory.read (m ++ m') i = Memory.read m i := by
  induction m with
  | nil => simpa using Memory.read_of_lacks h
  | cons c m ih => obtain ⟨k, u⟩ := c; simp only [List.cons_append, Memory.read, ih]

theorem Memory.read_filter {m : Memory w} {p : Nat → Bool} {i : Nat} :
    Memory.read (m.filter (fun c => p c.1)) i = if p i = true then Memory.read m i else 0 := by
  induction m with
  | nil => simp
  | cons c m ih =>
    obtain ⟨k, u⟩ := c
    by_cases hk : i = k
    · subst hk
      cases hp : p i <;> simp [hp, Memory.read, ih]
    · cases hp : p k <;> simp [hp, Memory.read, ih, hk]

/-- A copy changes exactly the indices of its range. -/
theorem Memory.read_copy {src dst : Memory w} {lo hi i : Nat} :
    Memory.read (Memory.copy src dst lo hi) i =
      if lo ≤ i ∧ i < hi then Memory.read src i else Memory.read dst i := by
  unfold Memory.copy
  by_cases h1 : i < lo
  · rw [List.append_assoc, Memory.read_append_left (by simp; omega),
      Memory.read_filter (p := fun j => decide (j < lo))]
    have : ¬(lo ≤ i ∧ i < hi) := by omega
    simp [h1, this]
  · rw [List.append_assoc, Memory.read_append_of_lacks (by simp; omega)]
    by_cases h2 : i < hi
    · rw [Memory.read_append_left (by simp; omega),
        Memory.read_filter (p := fun j => decide (lo ≤ j) && decide (j < hi))]
      have : lo ≤ i := by omega
      simp [h2, this]
    · rw [Memory.read_append_of_lacks (by simp; omega),
        Memory.read_filter (p := fun j => decide (lo ≤ j) && decide (hi ≤ j))]
      have : lo ≤ i := by omega
      have : hi ≤ i := by omega
      simp [*]

/-- A list is canonical when its parts are and the first ends before the second begins. -/
theorem Memory.wfFrom_append {size lo mid : Nat} {m m' : Memory w} (hm : Memory.wfFrom size lo m = true)
    (hlt : ∀ c ∈ m, c.1 < mid) (hm' : Memory.wfFrom size mid m' = true) (hle : lo ≤ mid) :
    Memory.wfFrom size lo (m ++ m') = true := by
  induction m generalizing lo with
  | nil => exact Memory.wfFrom_mono hle hm'
  | cons c m ih =>
    obtain ⟨k, u⟩ := c
    have hk := hlt (k, u) (by simp)
    simp [Memory.wfFrom] at hm hk ⊢
    exact ⟨hm.1, ih hm.2 (fun c hc => hlt c (by simp [hc])) (by omega)⟩

theorem Memory.wfFrom_filter_self {size lo : Nat} {m : Memory w} {p : Nat → Bool}
    (hm : Memory.wfFrom size lo m = true) : Memory.wfFrom size lo (m.filter (fun c => p c.1)) = true := by
  induction m generalizing lo with
  | nil => rfl
  | cons c m ih =>
    obtain ⟨k, u⟩ := c
    simp [Memory.wfFrom] at hm
    cases hk : p k
    · simpa [List.filter_cons, hk] using Memory.wfFrom_mono (by omega) (ih hm.2)
    · simp [hk, Memory.wfFrom, hm.1]
      exact ih hm.2

theorem Memory.wfFrom_filter {size lo lo' : Nat} {m : Memory w} {p : Nat → Bool} (hm : Memory.wfFrom size lo m = true)
    (hp : ∀ i, p i = true → lo' ≤ i) : Memory.wfFrom size lo' (m.filter (fun c => p c.1)) = true := by
  have h := Memory.wfFrom_filter_self (p := p) hm
  have hall : ∀ c ∈ m.filter (fun c => p c.1), lo' ≤ c.1 := fun c hc => hp _ (List.mem_filter.1 hc).2
  cases hf : m.filter (fun c => p c.1) with
  | nil => rfl
  | cons c m' =>
    rw [hf] at h hall
    have hc := hall c (by simp)
    simp [Memory.wfFrom] at h ⊢
    exact ⟨⟨⟨hc, h.1.1.2⟩, h.1.2⟩, h.2⟩

/-- A copy between canonical memories is canonical. -/
theorem Memory.wf_copy {size : Nat} {src dst : Memory w} {lo hi : Nat} (hs : Memory.wf size src = true)
    (hd : Memory.wf size dst = true) : Memory.wf size (Memory.copy src dst lo hi) = true := by
  unfold Memory.copy
  rw [List.append_assoc]
  refine Memory.wfFrom_append (mid := lo) (Memory.wfFrom_filter_self (p := fun j => decide (j < lo)) hd)
    (by simp) ?_ (Nat.zero_le _)
  refine Memory.wfFrom_append (mid := max lo hi)
    (Memory.wfFrom_filter (p := fun j => decide (lo ≤ j) && decide (j < hi)) hs (by simp; omega))
    (by simp; omega)
    (Memory.wfFrom_filter (p := fun j => decide (lo ≤ j) && decide (hi ≤ j)) hd (by simp)) (by omega)

theorem Memory.ext_from {size lo : Nat} {m m' : Memory w} (hm : Memory.wfFrom size lo m = true)
    (hm' : Memory.wfFrom size lo m' = true) (h : ∀ i, Memory.read m i = Memory.read m' i) : m = m' := by
  induction m generalizing lo m' with
  | nil =>
    cases m' with
    | nil => rfl
    | cons c m' =>
      obtain ⟨k, u⟩ := c
      have := h k
      simp [Memory.wfFrom] at hm'
      simp [Memory.read] at this
      exact absurd this.symm hm'.1.2
  | cons c m ih =>
    obtain ⟨j, u⟩ := c
    have hm0 := hm
    simp [Memory.wfFrom] at hm
    cases m' with
    | nil =>
      have := h j
      simp [Memory.read] at this
      exact absurd this hm.1.2
    | cons c m' =>
      obtain ⟨k, v⟩ := c
      have hm0' := hm'
      simp [Memory.wfFrom] at hm'
      have hjk : j = k := by
        rcases Nat.lt_trichotomy j k with hlt | heq | hgt
        · have := h j
          have hz := Memory.read_lt_of_wfFrom hm'.2 (i := j) (by omega)
          have hne : j ≠ k := by omega
          simp [Memory.read, hne, hz] at this
          exact absurd this hm.1.2
        · exact heq
        · have := h k
          have hz := Memory.read_lt_of_wfFrom hm.2 (i := k) (by omega)
          have hne : k ≠ j := by omega
          simp [Memory.read, hne, hz] at this
          exact absurd this.symm hm'.1.2
      subst hjk
      have huv : u = v := by simpa [Memory.read] using h j
      subst huv
      congr 1
      refine ih hm.2 hm'.2 fun i => ?_
      by_cases hij : i = j
      · subst hij
        rw [Memory.read_lt_of_wfFrom hm.2 (by omega), Memory.read_lt_of_wfFrom hm'.2 (by omega)]
      · simpa [Memory.read, hij] using h i

/-- Equal memories are equal data. -/
theorem Memory.ext {size : Nat} {m m' : Memory w} (hm : Memory.wf size m = true) (hm' : Memory.wf size m' = true)
    (h : ∀ i, Memory.read m i = Memory.read m' i) : m = m' := Memory.ext_from hm hm' h

/-- A copy of the whole memory is the source. -/
theorem Memory.copy_all {size : Nat} {src dst : Memory w} (hs : Memory.wf size src = true)
    (hd : Memory.wf size dst = true) : Memory.copy src dst 0 size = src := by
  refine Memory.ext (Memory.wf_copy hs hd) hs fun i => ?_
  rw [Memory.read_copy]
  split
  · rfl
  · rw [Memory.read_ge hd (by omega), Memory.read_ge hs (by omega)]

/-- Two adjacent copies are one. -/
theorem Memory.copy_copy {size : Nat} {src dst : Memory w} {lo mid hi : Nat} (hs : Memory.wf size src = true)
    (hd : Memory.wf size dst = true) (h1 : lo ≤ mid) (h2 : mid ≤ hi) :
    Memory.copy src (Memory.copy src dst lo mid) mid hi = Memory.copy src dst lo hi := by
  refine Memory.ext (Memory.wf_copy hs (Memory.wf_copy hs hd)) (Memory.wf_copy hs hd) fun i => ?_
  simp only [Memory.read_copy]
  by_cases h : mid ≤ i ∧ i < hi
  · rw [if_pos h, if_pos (by omega)]
  · rw [if_neg h]
    by_cases h' : lo ≤ i ∧ i < mid
    · rw [if_pos h', if_pos (by omega)]
    · rw [if_neg h', if_neg (by omega)]

theorem Memory.wf_nil (size : Nat) : Memory.wf size ([] : Memory w) = true := rfl

end Sys2Proof.Machine
end

