-- ==== Sys2Proof/Laws/PerInstr.lean ====
section
/-! SUPPORT. A fact of every operation as syntax: its owner may present it, and runs on the thread of its operations
(00_scope.md R6, 60_exceptions.md R211). -/

namespace Sys2Proof.Laws.Owner

/-- The operation has an agent that may present it. -/
def Statement (i : Instr) : Prop := Machine.owns (Machine.owner i) i = true

theorem cpur (a : Addr) : Statement (.cpur a) := by simp [Statement, Machine.owns]
theorem cpuw (a : Addr) (v : Byte) : Statement (.cpuw a v) := by simp [Statement, Machine.owns]
theorem ppur (a : Addr) : Statement (.ppur a) := by simp [Statement, Machine.owns]
theorem ppuw (a : Addr) (v : Byte) : Statement (.ppuw a v) := by simp [Statement, Machine.owns]
theorem snap (b : BitVec 16) : Statement (.snap b) := by simp [Statement, Machine.owns]
theorem gundn (x y : Byte) : Statement (.gundn x y) := by simp [Statement, Machine.owns]
theorem gunup : Statement .gunup := by simp [Statement, Machine.owns]
theorem guntg : Statement .guntg := by simp [Statement, Machine.owns]
theorem irqa (src : Byte) : Statement (.irqa src) := by simp [Statement, Machine.owns]
theorem irqk (src : Byte) : Statement (.irqk src) := by simp [Statement, Machine.owns]
theorem irqv : Statement .irqv := by simp [Statement, Machine.owns]
theorem fpub (f : BitVec 24) : Statement (.fpub f) := by simp [Statement, Machine.owns]
theorem facq : Statement .facq := by simp [Statement, Machine.owns]
theorem apush (samples : List Sample) : Statement (.apush samples) := by simp [Statement, Machine.owns]
theorem apull (n : Nat) : Statement (.apull n) := by simp [Statement, Machine.owns]
theorem reset : Statement .reset := by simp [Statement, Machine.owns]
theorem stop : Statement .stop := by simp [Statement, Machine.owns]
theorem avail : Statement .avail := by simp [Statement, Machine.owns]
theorem setnmi (b : Bool) : Statement (.setnmi b) := by simp [Statement, Machine.owns]
theorem ppucfg (k : PpuSetter) (val : Byte) : Statement (.ppucfg k val) := by simp [Statement, Machine.owns]
theorem cpurLow0000 (off : BitVec 13) : Statement (.cpurLow0000 off) := by simp [Statement, Machine.owns]
theorem cpuwLow0000 (off : BitVec 13) (v : Byte) : Statement (.cpuwLow0000 off v) := by simp [Statement, Machine.owns]
theorem cpurPpu2000 (off : BitVec 13) : Statement (.cpurPpu2000 off) := by simp [Statement, Machine.owns]
theorem cpuwPpu2000 (off : BitVec 13) (v : Byte) : Statement (.cpuwPpu2000 off v) := by simp [Statement, Machine.owns]
theorem cpurIo4000 (off : BitVec 4) : Statement (.cpurIo4000 off) := by simp [Statement, Machine.owns]
theorem cpuwIo4000 (off : BitVec 4) (v : Byte) : Statement (.cpuwIo4000 off v) := by simp [Statement, Machine.owns]
theorem cpurIo4010 (off : BitVec 2) : Statement (.cpurIo4010 off) := by simp [Statement, Machine.owns]
theorem cpuwIo4010 (off : BitVec 2) (v : Byte) : Statement (.cpuwIo4010 off v) := by simp [Statement, Machine.owns]
theorem cpurIo4014 (off : BitVec 1) : Statement (.cpurIo4014 off) := by simp [Statement, Machine.owns]
theorem cpuwIo4014 (off : BitVec 1) (v : Byte) : Statement (.cpuwIo4014 off v) := by simp [Statement, Machine.owns]
theorem cpurPort1 : Statement .cpurPort1 := by simp [Statement, Machine.owns]
theorem cpuwStrobe (v : Byte) : Statement (.cpuwStrobe v) := by simp [Statement, Machine.owns]
theorem cpurPort2 : Statement .cpurPort2 := by simp [Statement, Machine.owns]
theorem cpuwPort2 (v : Byte) : Statement (.cpuwPort2 v) := by simp [Statement, Machine.owns]
theorem cpurUnmapped4018 (off : BitVec 3) : Statement (.cpurUnmapped4018 off) := by simp [Statement, Machine.owns]
theorem cpuwUnmapped4018 (off : BitVec 3) (v : Byte) : Statement (.cpuwUnmapped4018 off v) := by simp [Statement, Machine.owns]
theorem cpurCart4020 (off : BitVec 5) : Statement (.cpurCart4020 off) := by simp [Statement, Machine.owns]
theorem cpuwCart4020 (off : BitVec 5) (v : Byte) : Statement (.cpuwCart4020 off v) := by simp [Statement, Machine.owns]
theorem cpurCart4040 (off : BitVec 6) : Statement (.cpurCart4040 off) := by simp [Statement, Machine.owns]
theorem cpuwCart4040 (off : BitVec 6) (v : Byte) : Statement (.cpuwCart4040 off v) := by simp [Statement, Machine.owns]
theorem cpurCart4080 (off : BitVec 7) : Statement (.cpurCart4080 off) := by simp [Statement, Machine.owns]
theorem cpuwCart4080 (off : BitVec 7) (v : Byte) : Statement (.cpuwCart4080 off v) := by simp [Statement, Machine.owns]
theorem cpurCart4100 (off : BitVec 8) : Statement (.cpurCart4100 off) := by simp [Statement, Machine.owns]
theorem cpuwCart4100 (off : BitVec 8) (v : Byte) : Statement (.cpuwCart4100 off v) := by simp [Statement, Machine.owns]
theorem cpurCart4200 (off : BitVec 9) : Statement (.cpurCart4200 off) := by simp [Statement, Machine.owns]
theorem cpuwCart4200 (off : BitVec 9) (v : Byte) : Statement (.cpuwCart4200 off v) := by simp [Statement, Machine.owns]
theorem cpurCart4400 (off : BitVec 10) : Statement (.cpurCart4400 off) := by simp [Statement, Machine.owns]
theorem cpuwCart4400 (off : BitVec 10) (v : Byte) : Statement (.cpuwCart4400 off v) := by simp [Statement, Machine.owns]
theorem cpurCart4800 (off : BitVec 11) : Statement (.cpurCart4800 off) := by simp [Statement, Machine.owns]
theorem cpuwCart4800 (off : BitVec 11) (v : Byte) : Statement (.cpuwCart4800 off v) := by simp [Statement, Machine.owns]
theorem cpurCart5000 (off : BitVec 12) : Statement (.cpurCart5000 off) := by simp [Statement, Machine.owns]
theorem cpuwCart5000 (off : BitVec 12) (v : Byte) : Statement (.cpuwCart5000 off v) := by simp [Statement, Machine.owns]
theorem cpurCart6000 (off : BitVec 13) : Statement (.cpurCart6000 off) := by simp [Statement, Machine.owns]
theorem cpuwCart6000 (off : BitVec 13) (v : Byte) : Statement (.cpuwCart6000 off v) := by simp [Statement, Machine.owns]
theorem cpurCart8000 (off : BitVec 15) : Statement (.cpurCart8000 off) := by simp [Statement, Machine.owns]
theorem cpuwCart8000 (off : BitVec 15) (v : Byte) : Statement (.cpuwCart8000 off v) := by simp [Statement, Machine.owns]

end Sys2Proof.Laws.Owner
end

