-- ==== Sys2Proof/Laws/State.lean ====
section
/-! SUPPORT. What each shared update leaves in each field of the state: one lemma a field an update. -/

namespace Sys2Proof.Machine

variable (s : State)

@[simp] theorem noResult_strobe : (noResult s).strobe = s.strobe := rfl
@[simp] theorem noResult_shift1 : (noResult s).shift1 = s.shift1 := rfl
@[simp] theorem noResult_shift2 : (noResult s).shift2 = s.shift2 := rfl
@[simp] theorem noResult_snapshot : (noResult s).snapshot = s.snapshot := rfl
@[simp] theorem noResult_gunX : (noResult s).gunX = s.gunX := rfl
@[simp] theorem noResult_gunY : (noResult s).gunY = s.gunY := rfl
@[simp] theorem noResult_trigger : (noResult s).trigger = s.trigger := rfl
@[simp] theorem noResult_lightSensed : (noResult s).lightSensed = s.lightSensed := rfl
@[simp] theorem noResult_connected : (noResult s).connected = s.connected := rfl
@[simp] theorem noResult_irq : (noResult s).irq = s.irq := rfl
@[simp] theorem noResult_slot : (noResult s).slot = s.slot := rfl
@[simp] theorem noResult_flock : (noResult s).flock = s.flock := rfl
@[simp] theorem noResult_buf : (noResult s).buf = s.buf := rfl
@[simp] theorem noResult_wr : (noResult s).wr = s.wr := rfl
@[simp] theorem noResult_rd : (noResult s).rd = s.rd := rfl
@[simp] theorem noResult_overrunDropped : (noResult s).overrunDropped = s.overrunDropped := rfl
@[simp] theorem noResult_running : (noResult s).running = s.running := rfl
@[simp] theorem noResult_fprod : (noResult s).fprod = s.fprod := rfl
@[simp] theorem noResult_fcons : (noResult s).fcons = s.fcons := rfl
@[simp] theorem noResult_aprod : (noResult s).aprod = s.aprod := rfl
@[simp] theorem noResult_acons : (noResult s).acons = s.acons := rfl
@[simp] theorem noResult_started : (noResult s).started = s.started := rfl
@[simp] theorem noResult_emulationEnded : (noResult s).emulationEnded = s.emulationEnded := rfl
@[simp] theorem noResult_presentationEnded : (noResult s).presentationEnded = s.presentationEnded := rfl
@[simp] theorem noResult_cfg : (noResult s).cfg = s.cfg := rfl
@[simp] theorem noResult_frames : (noResult s).frames = s.frames := rfl
@[simp] theorem noResult_inbox : (noResult s).inbox = s.inbox := rfl
@[simp] theorem noResult_calls : (noResult s).calls = s.calls := rfl
@[simp] theorem noResult_raised : (noResult s).raised = s.raised := rfl
@[simp] theorem noResult_result : (noResult s).result = .none := rfl
@[simp] theorem noResult_draws : (noResult s).draws = s.draws := rfl

@[simp] theorem giveResult_strobe (r : Result) : (giveResult r s).strobe = s.strobe := rfl
@[simp] theorem giveResult_shift1 (r : Result) : (giveResult r s).shift1 = s.shift1 := rfl
@[simp] theorem giveResult_shift2 (r : Result) : (giveResult r s).shift2 = s.shift2 := rfl
@[simp] theorem giveResult_snapshot (r : Result) : (giveResult r s).snapshot = s.snapshot := rfl
@[simp] theorem giveResult_gunX (r : Result) : (giveResult r s).gunX = s.gunX := rfl
@[simp] theorem giveResult_gunY (r : Result) : (giveResult r s).gunY = s.gunY := rfl
@[simp] theorem giveResult_trigger (r : Result) : (giveResult r s).trigger = s.trigger := rfl
@[simp] theorem giveResult_lightSensed (r : Result) : (giveResult r s).lightSensed = s.lightSensed := rfl
@[simp] theorem giveResult_connected (r : Result) : (giveResult r s).connected = s.connected := rfl
@[simp] theorem giveResult_irq (r : Result) : (giveResult r s).irq = s.irq := rfl
@[simp] theorem giveResult_slot (r : Result) : (giveResult r s).slot = s.slot := rfl
@[simp] theorem giveResult_flock (r : Result) : (giveResult r s).flock = s.flock := rfl
@[simp] theorem giveResult_buf (r : Result) : (giveResult r s).buf = s.buf := rfl
@[simp] theorem giveResult_wr (r : Result) : (giveResult r s).wr = s.wr := rfl
@[simp] theorem giveResult_rd (r : Result) : (giveResult r s).rd = s.rd := rfl
@[simp] theorem giveResult_overrunDropped (r : Result) : (giveResult r s).overrunDropped = s.overrunDropped := rfl
@[simp] theorem giveResult_running (r : Result) : (giveResult r s).running = s.running := rfl
@[simp] theorem giveResult_fprod (r : Result) : (giveResult r s).fprod = s.fprod := rfl
@[simp] theorem giveResult_fcons (r : Result) : (giveResult r s).fcons = s.fcons := rfl
@[simp] theorem giveResult_aprod (r : Result) : (giveResult r s).aprod = s.aprod := rfl
@[simp] theorem giveResult_acons (r : Result) : (giveResult r s).acons = s.acons := rfl
@[simp] theorem giveResult_started (r : Result) : (giveResult r s).started = s.started := rfl
@[simp] theorem giveResult_emulationEnded (r : Result) : (giveResult r s).emulationEnded = s.emulationEnded := rfl
@[simp] theorem giveResult_presentationEnded (r : Result) : (giveResult r s).presentationEnded = s.presentationEnded := rfl
@[simp] theorem giveResult_cfg (r : Result) : (giveResult r s).cfg = s.cfg := rfl
@[simp] theorem giveResult_frames (r : Result) : (giveResult r s).frames = s.frames := rfl
@[simp] theorem giveResult_inbox (r : Result) : (giveResult r s).inbox = s.inbox := rfl
@[simp] theorem giveResult_calls (r : Result) : (giveResult r s).calls = s.calls := rfl
@[simp] theorem giveResult_raised (r : Result) : (giveResult r s).raised = s.raised := rfl
@[simp] theorem giveResult_result (r : Result) : (giveResult r s).result = r := rfl
@[simp] theorem giveResult_draws (r : Result) : (giveResult r s).draws = s.draws := rfl

@[simp] theorem raise_strobe (c : Condition) : (raise c s).strobe = s.strobe := rfl
@[simp] theorem raise_shift1 (c : Condition) : (raise c s).shift1 = s.shift1 := rfl
@[simp] theorem raise_shift2 (c : Condition) : (raise c s).shift2 = s.shift2 := rfl
@[simp] theorem raise_snapshot (c : Condition) : (raise c s).snapshot = s.snapshot := rfl
@[simp] theorem raise_gunX (c : Condition) : (raise c s).gunX = s.gunX := rfl
@[simp] theorem raise_gunY (c : Condition) : (raise c s).gunY = s.gunY := rfl
@[simp] theorem raise_trigger (c : Condition) : (raise c s).trigger = s.trigger := rfl
@[simp] theorem raise_lightSensed (c : Condition) : (raise c s).lightSensed = s.lightSensed := rfl
@[simp] theorem raise_connected (c : Condition) : (raise c s).connected = s.connected := rfl
@[simp] theorem raise_irq (c : Condition) : (raise c s).irq = s.irq := rfl
@[simp] theorem raise_slot (c : Condition) : (raise c s).slot = s.slot := rfl
@[simp] theorem raise_flock (c : Condition) : (raise c s).flock = s.flock := rfl
@[simp] theorem raise_buf (c : Condition) : (raise c s).buf = s.buf := rfl
@[simp] theorem raise_wr (c : Condition) : (raise c s).wr = s.wr := rfl
@[simp] theorem raise_rd (c : Condition) : (raise c s).rd = s.rd := rfl
@[simp] theorem raise_overrunDropped (c : Condition) : (raise c s).overrunDropped = s.overrunDropped := rfl
@[simp] theorem raise_running (c : Condition) : (raise c s).running = s.running := rfl
@[simp] theorem raise_fprod (c : Condition) : (raise c s).fprod = s.fprod := rfl
@[simp] theorem raise_fcons (c : Condition) : (raise c s).fcons = s.fcons := rfl
@[simp] theorem raise_aprod (c : Condition) : (raise c s).aprod = s.aprod := rfl
@[simp] theorem raise_acons (c : Condition) : (raise c s).acons = s.acons := rfl
@[simp] theorem raise_started (c : Condition) : (raise c s).started = s.started := rfl
@[simp] theorem raise_emulationEnded (c : Condition) : (raise c s).emulationEnded = s.emulationEnded := rfl
@[simp] theorem raise_presentationEnded (c : Condition) : (raise c s).presentationEnded = s.presentationEnded := rfl
@[simp] theorem raise_cfg (c : Condition) : (raise c s).cfg = s.cfg := rfl
@[simp] theorem raise_frames (c : Condition) : (raise c s).frames = s.frames := rfl
@[simp] theorem raise_inbox (c : Condition) : (raise c s).inbox = s.inbox := rfl
@[simp] theorem raise_calls (c : Condition) : (raise c s).calls = s.calls := rfl
@[simp] theorem raise_raised (c : Condition) : (raise c s).raised = s.raised ++ [c] := rfl
@[simp] theorem raise_result (c : Condition) : (raise c s).result = s.result := rfl
@[simp] theorem raise_draws (c : Condition) : (raise c s).draws = s.draws := rfl

@[simp] theorem notify_strobe (c : Call) : (notify c s).strobe = s.strobe := rfl
@[simp] theorem notify_shift1 (c : Call) : (notify c s).shift1 = s.shift1 := rfl
@[simp] theorem notify_shift2 (c : Call) : (notify c s).shift2 = s.shift2 := rfl
@[simp] theorem notify_snapshot (c : Call) : (notify c s).snapshot = s.snapshot := rfl
@[simp] theorem notify_gunX (c : Call) : (notify c s).gunX = s.gunX := rfl
@[simp] theorem notify_gunY (c : Call) : (notify c s).gunY = s.gunY := rfl
@[simp] theorem notify_trigger (c : Call) : (notify c s).trigger = s.trigger := rfl
@[simp] theorem notify_lightSensed (c : Call) : (notify c s).lightSensed = s.lightSensed := rfl
@[simp] theorem notify_connected (c : Call) : (notify c s).connected = s.connected := rfl
@[simp] theorem notify_irq (c : Call) : (notify c s).irq = s.irq := rfl
@[simp] theorem notify_slot (c : Call) : (notify c s).slot = s.slot := rfl
@[simp] theorem notify_flock (c : Call) : (notify c s).flock = s.flock := rfl
@[simp] theorem notify_buf (c : Call) : (notify c s).buf = s.buf := rfl
@[simp] theorem notify_wr (c : Call) : (notify c s).wr = s.wr := rfl
@[simp] theorem notify_rd (c : Call) : (notify c s).rd = s.rd := rfl
@[simp] theorem notify_overrunDropped (c : Call) : (notify c s).overrunDropped = s.overrunDropped := rfl
@[simp] theorem notify_running (c : Call) : (notify c s).running = s.running := rfl
@[simp] theorem notify_fprod (c : Call) : (notify c s).fprod = s.fprod := rfl
@[simp] theorem notify_fcons (c : Call) : (notify c s).fcons = s.fcons := rfl
@[simp] theorem notify_aprod (c : Call) : (notify c s).aprod = s.aprod := rfl
@[simp] theorem notify_acons (c : Call) : (notify c s).acons = s.acons := rfl
@[simp] theorem notify_started (c : Call) : (notify c s).started = s.started := rfl
@[simp] theorem notify_emulationEnded (c : Call) : (notify c s).emulationEnded = s.emulationEnded := rfl
@[simp] theorem notify_presentationEnded (c : Call) : (notify c s).presentationEnded = s.presentationEnded := rfl
@[simp] theorem notify_cfg (c : Call) : (notify c s).cfg = s.cfg := rfl
@[simp] theorem notify_frames (c : Call) : (notify c s).frames = s.frames := rfl
@[simp] theorem notify_inbox (c : Call) : (notify c s).inbox = s.inbox := rfl
@[simp] theorem notify_calls (c : Call) : (notify c s).calls = s.calls ++ [c] := rfl
@[simp] theorem notify_raised (c : Call) : (notify c s).raised = s.raised := rfl
@[simp] theorem notify_result (c : Call) : (notify c s).result = .none := rfl
@[simp] theorem notify_draws (c : Call) : (notify c s).draws = s.draws := rfl

@[simp] theorem query_strobe (c : Call) : (query c s).strobe = s.strobe := rfl
@[simp] theorem query_shift1 (c : Call) : (query c s).shift1 = s.shift1 := rfl
@[simp] theorem query_shift2 (c : Call) : (query c s).shift2 = s.shift2 := rfl
@[simp] theorem query_snapshot (c : Call) : (query c s).snapshot = s.snapshot := rfl
@[simp] theorem query_gunX (c : Call) : (query c s).gunX = s.gunX := rfl
@[simp] theorem query_gunY (c : Call) : (query c s).gunY = s.gunY := rfl
@[simp] theorem query_trigger (c : Call) : (query c s).trigger = s.trigger := rfl
@[simp] theorem query_lightSensed (c : Call) : (query c s).lightSensed = s.lightSensed := rfl
@[simp] theorem query_connected (c : Call) : (query c s).connected = s.connected := rfl
@[simp] theorem query_irq (c : Call) : (query c s).irq = s.irq := rfl
@[simp] theorem query_slot (c : Call) : (query c s).slot = s.slot := rfl
@[simp] theorem query_flock (c : Call) : (query c s).flock = s.flock := rfl
@[simp] theorem query_buf (c : Call) : (query c s).buf = s.buf := rfl
@[simp] theorem query_wr (c : Call) : (query c s).wr = s.wr := rfl
@[simp] theorem query_rd (c : Call) : (query c s).rd = s.rd := rfl
@[simp] theorem query_overrunDropped (c : Call) : (query c s).overrunDropped = s.overrunDropped := rfl
@[simp] theorem query_running (c : Call) : (query c s).running = s.running := rfl
@[simp] theorem query_fprod (c : Call) : (query c s).fprod = s.fprod := rfl
@[simp] theorem query_fcons (c : Call) : (query c s).fcons = s.fcons := rfl
@[simp] theorem query_aprod (c : Call) : (query c s).aprod = s.aprod := rfl
@[simp] theorem query_acons (c : Call) : (query c s).acons = s.acons := rfl
@[simp] theorem query_started (c : Call) : (query c s).started = s.started := rfl
@[simp] theorem query_emulationEnded (c : Call) : (query c s).emulationEnded = s.emulationEnded := rfl
@[simp] theorem query_presentationEnded (c : Call) : (query c s).presentationEnded = s.presentationEnded := rfl
@[simp] theorem query_cfg (c : Call) : (query c s).cfg = s.cfg := rfl
@[simp] theorem query_frames (c : Call) : (query c s).frames = s.frames := rfl
@[simp] theorem query_inbox (c : Call) : (query c s).inbox = s.inbox := rfl
@[simp] theorem query_calls (c : Call) : (query c s).calls = s.calls ++ [c] := rfl
@[simp] theorem query_raised (c : Call) : (query c s).raised = s.raised := rfl
@[simp] theorem query_result (c : Call) : (query c s).result = .byte (Config.oracleByte s.draws) := rfl
@[simp] theorem query_draws (c : Call) : (query c s).draws = s.draws + 1 := rfl

@[simp] theorem reload_strobe : (reload s).strobe = s.strobe := rfl
@[simp] theorem reload_shift1 : (reload s).shift1 = s.snapshot.extractLsb' 0 8 := rfl
@[simp] theorem reload_shift2 : (reload s).shift2 = if s.connected then s.shift2 else s.snapshot.extractLsb' 8 8 := rfl
@[simp] theorem reload_snapshot : (reload s).snapshot = s.snapshot := rfl
@[simp] theorem reload_gunX : (reload s).gunX = s.gunX := rfl
@[simp] theorem reload_gunY : (reload s).gunY = s.gunY := rfl
@[simp] theorem reload_trigger : (reload s).trigger = s.trigger := rfl
@[simp] theorem reload_lightSensed : (reload s).lightSensed = s.lightSensed := rfl
@[simp] theorem reload_connected : (reload s).connected = s.connected := rfl
@[simp] theorem reload_irq : (reload s).irq = s.irq := rfl
@[simp] theorem reload_slot : (reload s).slot = s.slot := rfl
@[simp] theorem reload_flock : (reload s).flock = s.flock := rfl
@[simp] theorem reload_buf : (reload s).buf = s.buf := rfl
@[simp] theorem reload_wr : (reload s).wr = s.wr := rfl
@[simp] theorem reload_rd : (reload s).rd = s.rd := rfl
@[simp] theorem reload_overrunDropped : (reload s).overrunDropped = s.overrunDropped := rfl
@[simp] theorem reload_running : (reload s).running = s.running := rfl
@[simp] theorem reload_fprod : (reload s).fprod = s.fprod := rfl
@[simp] theorem reload_fcons : (reload s).fcons = s.fcons := rfl
@[simp] theorem reload_aprod : (reload s).aprod = s.aprod := rfl
@[simp] theorem reload_acons : (reload s).acons = s.acons := rfl
@[simp] theorem reload_started : (reload s).started = s.started := rfl
@[simp] theorem reload_emulationEnded : (reload s).emulationEnded = s.emulationEnded := rfl
@[simp] theorem reload_presentationEnded : (reload s).presentationEnded = s.presentationEnded := rfl
@[simp] theorem reload_cfg : (reload s).cfg = s.cfg := rfl
@[simp] theorem reload_frames : (reload s).frames = s.frames := rfl
@[simp] theorem reload_inbox : (reload s).inbox = s.inbox := rfl
@[simp] theorem reload_calls : (reload s).calls = s.calls := rfl
@[simp] theorem reload_raised : (reload s).raised = s.raised := rfl
@[simp] theorem reload_result : (reload s).result = s.result := rfl
@[simp] theorem reload_draws : (reload s).draws = s.draws := rfl

@[simp] theorem readGun_strobe : (readGun s).strobe = s.strobe := rfl
@[simp] theorem readGun_shift1 : (readGun s).shift1 = s.shift1 := rfl
@[simp] theorem readGun_shift2 : (readGun s).shift2 = s.shift2 := rfl
@[simp] theorem readGun_snapshot : (readGun s).snapshot = s.snapshot := rfl
@[simp] theorem readGun_gunX : (readGun s).gunX = s.gunX := rfl
@[simp] theorem readGun_gunY : (readGun s).gunY = s.gunY := rfl
@[simp] theorem readGun_trigger : (readGun s).trigger = s.trigger := rfl
@[simp] theorem readGun_lightSensed : (readGun s).lightSensed = s.lightSensed := rfl
@[simp] theorem readGun_connected : (readGun s).connected = s.connected := rfl
@[simp] theorem readGun_irq : (readGun s).irq = s.irq := rfl
@[simp] theorem readGun_slot : (readGun s).slot = s.slot := rfl
@[simp] theorem readGun_flock : (readGun s).flock = s.flock := rfl
@[simp] theorem readGun_buf : (readGun s).buf = s.buf := rfl
@[simp] theorem readGun_wr : (readGun s).wr = s.wr := rfl
@[simp] theorem readGun_rd : (readGun s).rd = s.rd := rfl
@[simp] theorem readGun_overrunDropped : (readGun s).overrunDropped = s.overrunDropped := rfl
@[simp] theorem readGun_running : (readGun s).running = s.running := rfl
@[simp] theorem readGun_fprod : (readGun s).fprod = s.fprod := rfl
@[simp] theorem readGun_fcons : (readGun s).fcons = s.fcons := rfl
@[simp] theorem readGun_aprod : (readGun s).aprod = s.aprod := rfl
@[simp] theorem readGun_acons : (readGun s).acons = s.acons := rfl
@[simp] theorem readGun_started : (readGun s).started = s.started := rfl
@[simp] theorem readGun_emulationEnded : (readGun s).emulationEnded = s.emulationEnded := rfl
@[simp] theorem readGun_presentationEnded : (readGun s).presentationEnded = s.presentationEnded := rfl
@[simp] theorem readGun_cfg : (readGun s).cfg = s.cfg := rfl
@[simp] theorem readGun_frames : (readGun s).frames = s.frames := rfl
@[simp] theorem readGun_inbox : (readGun s).inbox = s.inbox := rfl
@[simp] theorem readGun_calls : (readGun s).calls = s.calls := rfl
@[simp] theorem readGun_raised : (readGun s).raised = s.raised := rfl
@[simp] theorem readGun_result : (readGun s).result = .byte (gunByte s.cfg.gunDc s.trigger s.lightSensed) := rfl
@[simp] theorem readGun_draws : (readGun s).draws = s.draws := rfl

variable (k n : Nat)

@[simp] theorem overwriteOldest_strobe : (overwriteOldest k n s).strobe = s.strobe := by unfold overwriteOldest; split <;> rfl
@[simp] theorem overwriteOldest_shift1 : (overwriteOldest k n s).shift1 = s.shift1 := by unfold overwriteOldest; split <;> rfl
@[simp] theorem overwriteOldest_shift2 : (overwriteOldest k n s).shift2 = s.shift2 := by unfold overwriteOldest; split <;> rfl
@[simp] theorem overwriteOldest_snapshot : (overwriteOldest k n s).snapshot = s.snapshot := by unfold overwriteOldest; split <;> rfl
@[simp] theorem overwriteOldest_gunX : (overwriteOldest k n s).gunX = s.gunX := by unfold overwriteOldest; split <;> rfl
@[simp] theorem overwriteOldest_gunY : (overwriteOldest k n s).gunY = s.gunY := by unfold overwriteOldest; split <;> rfl
@[simp] theorem overwriteOldest_trigger : (overwriteOldest k n s).trigger = s.trigger := by unfold overwriteOldest; split <;> rfl
@[simp] theorem overwriteOldest_lightSensed : (overwriteOldest k n s).lightSensed = s.lightSensed := by unfold overwriteOldest; split <;> rfl
@[simp] theorem overwriteOldest_connected : (overwriteOldest k n s).connected = s.connected := by unfold overwriteOldest; split <;> rfl
@[simp] theorem overwriteOldest_irq : (overwriteOldest k n s).irq = s.irq := by unfold overwriteOldest; split <;> rfl
@[simp] theorem overwriteOldest_slot : (overwriteOldest k n s).slot = s.slot := by unfold overwriteOldest; split <;> rfl
@[simp] theorem overwriteOldest_flock : (overwriteOldest k n s).flock = s.flock := by unfold overwriteOldest; split <;> rfl
@[simp] theorem overwriteOldest_wr : (overwriteOldest k n s).wr = s.wr := by unfold overwriteOldest; split <;> rfl
@[simp] theorem overwriteOldest_rd : (overwriteOldest k n s).rd = s.rd := by unfold overwriteOldest; split <;> rfl
@[simp] theorem overwriteOldest_overrunDropped : (overwriteOldest k n s).overrunDropped = s.overrunDropped := by unfold overwriteOldest; split <;> rfl
@[simp] theorem overwriteOldest_running : (overwriteOldest k n s).running = s.running := by unfold overwriteOldest; split <;> rfl
@[simp] theorem overwriteOldest_fprod : (overwriteOldest k n s).fprod = s.fprod := by unfold overwriteOldest; split <;> rfl
@[simp] theorem overwriteOldest_fcons : (overwriteOldest k n s).fcons = s.fcons := by unfold overwriteOldest; split <;> rfl
@[simp] theorem overwriteOldest_aprod : (overwriteOldest k n s).aprod = s.aprod := by unfold overwriteOldest; split <;> rfl
@[simp] theorem overwriteOldest_acons : (overwriteOldest k n s).acons = s.acons := by unfold overwriteOldest; split <;> rfl
@[simp] theorem overwriteOldest_started : (overwriteOldest k n s).started = s.started := by unfold overwriteOldest; split <;> rfl
@[simp] theorem overwriteOldest_emulationEnded : (overwriteOldest k n s).emulationEnded = s.emulationEnded := by unfold overwriteOldest; split <;> rfl
@[simp] theorem overwriteOldest_presentationEnded : (overwriteOldest k n s).presentationEnded = s.presentationEnded := by unfold overwriteOldest; split <;> rfl
@[simp] theorem overwriteOldest_cfg : (overwriteOldest k n s).cfg = s.cfg := by unfold overwriteOldest; split <;> rfl
@[simp] theorem overwriteOldest_frames : (overwriteOldest k n s).frames = s.frames := by unfold overwriteOldest; split <;> rfl
@[simp] theorem overwriteOldest_inbox : (overwriteOldest k n s).inbox = s.inbox := by unfold overwriteOldest; split <;> rfl
@[simp] theorem overwriteOldest_calls : (overwriteOldest k n s).calls = s.calls := by unfold overwriteOldest; split <;> rfl
@[simp] theorem overwriteOldest_raised : (overwriteOldest k n s).raised = s.raised := by unfold overwriteOldest; split <;> rfl
@[simp] theorem overwriteOldest_result : (overwriteOldest k n s).result = s.result := by unfold overwriteOldest; split <;> rfl

@[simp] theorem endLoop_strobe (l : Loop) : (endLoop l s).strobe = s.strobe := by cases l <;> rfl
@[simp] theorem endLoop_shift1 (l : Loop) : (endLoop l s).shift1 = s.shift1 := by cases l <;> rfl
@[simp] theorem endLoop_shift2 (l : Loop) : (endLoop l s).shift2 = s.shift2 := by cases l <;> rfl
@[simp] theorem endLoop_snapshot (l : Loop) : (endLoop l s).snapshot = s.snapshot := by cases l <;> rfl
@[simp] theorem endLoop_gunX (l : Loop) : (endLoop l s).gunX = s.gunX := by cases l <;> rfl
@[simp] theorem endLoop_gunY (l : Loop) : (endLoop l s).gunY = s.gunY := by cases l <;> rfl
@[simp] theorem endLoop_trigger (l : Loop) : (endLoop l s).trigger = s.trigger := by cases l <;> rfl
@[simp] theorem endLoop_lightSensed (l : Loop) : (endLoop l s).lightSensed = s.lightSensed := by cases l <;> rfl
@[simp] theorem endLoop_connected (l : Loop) : (endLoop l s).connected = s.connected := by cases l <;> rfl
@[simp] theorem endLoop_irq (l : Loop) : (endLoop l s).irq = s.irq := by cases l <;> rfl
@[simp] theorem endLoop_slot (l : Loop) : (endLoop l s).slot = s.slot := by cases l <;> rfl
@[simp] theorem endLoop_flock (l : Loop) : (endLoop l s).flock = s.flock := by cases l <;> rfl
@[simp] theorem endLoop_buf (l : Loop) : (endLoop l s).buf = s.buf := by cases l <;> rfl
@[simp] theorem endLoop_wr (l : Loop) : (endLoop l s).wr = s.wr := by cases l <;> rfl
@[simp] theorem endLoop_rd (l : Loop) : (endLoop l s).rd = s.rd := by cases l <;> rfl
@[simp] theorem endLoop_overrunDropped (l : Loop) : (endLoop l s).overrunDropped = s.overrunDropped := by cases l <;> rfl
@[simp] theorem endLoop_running (l : Loop) : (endLoop l s).running = s.running := by cases l <;> rfl
@[simp] theorem endLoop_fprod (l : Loop) : (endLoop l s).fprod = s.fprod := by cases l <;> rfl
@[simp] theorem endLoop_fcons (l : Loop) : (endLoop l s).fcons = s.fcons := by cases l <;> rfl
@[simp] theorem endLoop_aprod (l : Loop) : (endLoop l s).aprod = s.aprod := by cases l <;> rfl
@[simp] theorem endLoop_acons (l : Loop) : (endLoop l s).acons = s.acons := by cases l <;> rfl
@[simp] theorem endLoop_started (l : Loop) : (endLoop l s).started = s.started := by cases l <;> rfl
@[simp] theorem endLoop_cfg (l : Loop) : (endLoop l s).cfg = s.cfg := by cases l <;> rfl
@[simp] theorem endLoop_frames (l : Loop) : (endLoop l s).frames = s.frames := by cases l <;> rfl
@[simp] theorem endLoop_inbox (l : Loop) : (endLoop l s).inbox = s.inbox := by cases l <;> rfl
@[simp] theorem endLoop_calls (l : Loop) : (endLoop l s).calls = s.calls := by cases l <;> rfl
@[simp] theorem endLoop_raised (l : Loop) : (endLoop l s).raised = s.raised := by cases l <;> rfl
@[simp] theorem endLoop_result (l : Loop) : (endLoop l s).result = s.result := by cases l <;> rfl
@[simp] theorem endLoop_draws (l : Loop) : (endLoop l s).draws = s.draws := by cases l <;> rfl
@[simp] theorem endLoop_emulationEnded (l : Loop) :
    (endLoop l s).emulationEnded = (s.emulationEnded || decide (l = .emulation)) := by
  cases l <;> simp [endLoop]
@[simp] theorem endLoop_presentationEnded (l : Loop) :
    (endLoop l s).presentationEnded = (s.presentationEnded || decide (l = .presentation)) := by
  cases l <;> simp [endLoop]

@[simp] theorem pollRunning_strobe (l : Loop) : (pollRunning l s).strobe = s.strobe := by
  unfold pollRunning; split <;> simp
@[simp] theorem pollRunning_shift1 (l : Loop) : (pollRunning l s).shift1 = s.shift1 := by
  unfold pollRunning; split <;> simp
@[simp] theorem pollRunning_shift2 (l : Loop) : (pollRunning l s).shift2 = s.shift2 := by
  unfold pollRunning; split <;> simp
@[simp] theorem pollRunning_snapshot (l : Loop) : (pollRunning l s).snapshot = s.snapshot := by
  unfold pollRunning; split <;> simp
@[simp] theorem pollRunning_gunX (l : Loop) : (pollRunning l s).gunX = s.gunX := by
  unfold pollRunning; split <;> simp
@[simp] theorem pollRunning_gunY (l : Loop) : (pollRunning l s).gunY = s.gunY := by
  unfold pollRunning; split <;> simp
@[simp] theorem pollRunning_trigger (l : Loop) : (pollRunning l s).trigger = s.trigger := by
  unfold pollRunning; split <;> simp
@[simp] theorem pollRunning_lightSensed (l : Loop) : (pollRunning l s).lightSensed = s.lightSensed := by
  unfold pollRunning; split <;> simp
@[simp] theorem pollRunning_connected (l : Loop) : (pollRunning l s).connected = s.connected := by
  unfold pollRunning; split <;> simp
@[simp] theorem pollRunning_irq (l : Loop) : (pollRunning l s).irq = s.irq := by
  unfold pollRunning; split <;> simp
@[simp] theorem pollRunning_slot (l : Loop) : (pollRunning l s).slot = s.slot := by
  unfold pollRunning; split <;> simp
@[simp] theorem pollRunning_flock (l : Loop) : (pollRunning l s).flock = s.flock := by
  unfold pollRunning; split <;> simp
@[simp] theorem pollRunning_buf (l : Loop) : (pollRunning l s).buf = s.buf := by
  unfold pollRunning; split <;> simp
@[simp] theorem pollRunning_wr (l : Loop) : (pollRunning l s).wr = s.wr := by
  unfold pollRunning; split <;> simp
@[simp] theorem pollRunning_rd (l : Loop) : (pollRunning l s).rd = s.rd := by
  unfold pollRunning; split <;> simp
@[simp] theorem pollRunning_overrunDropped (l : Loop) : (pollRunning l s).overrunDropped = s.overrunDropped := by
  unfold pollRunning; split <;> simp
@[simp] theorem pollRunning_running (l : Loop) : (pollRunning l s).running = s.running := by
  unfold pollRunning; split <;> simp
@[simp] theorem pollRunning_fprod (l : Loop) : (pollRunning l s).fprod = s.fprod := by
  unfold pollRunning; split <;> simp
@[simp] theorem pollRunning_fcons (l : Loop) : (pollRunning l s).fcons = s.fcons := by
  unfold pollRunning; split <;> simp
@[simp] theorem pollRunning_aprod (l : Loop) : (pollRunning l s).aprod = s.aprod := by
  unfold pollRunning; split <;> simp
@[simp] theorem pollRunning_acons (l : Loop) : (pollRunning l s).acons = s.acons := by
  unfold pollRunning; split <;> simp
@[simp] theorem pollRunning_started (l : Loop) : (pollRunning l s).started = s.started := by
  unfold pollRunning; split <;> simp
@[simp] theorem pollRunning_cfg (l : Loop) : (pollRunning l s).cfg = s.cfg := by
  unfold pollRunning; split <;> simp
@[simp] theorem pollRunning_frames (l : Loop) : (pollRunning l s).frames = s.frames := by
  unfold pollRunning; split <;> simp
@[simp] theorem pollRunning_inbox (l : Loop) : (pollRunning l s).inbox = s.inbox := by
  unfold pollRunning; split <;> simp
@[simp] theorem pollRunning_calls (l : Loop) : (pollRunning l s).calls = s.calls := by
  unfold pollRunning; split <;> simp
@[simp] theorem pollRunning_raised (l : Loop) : (pollRunning l s).raised = s.raised := by
  unfold pollRunning; split <;> simp
@[simp] theorem pollRunning_draws (l : Loop) : (pollRunning l s).draws = s.draws := by
  unfold pollRunning; split <;> simp
@[simp] theorem pollRunning_result (l : Loop) : (pollRunning l s).result = .flag s.running := rfl
@[simp] theorem pollRunning_emulationEnded (l : Loop) :
    (pollRunning l s).emulationEnded = (s.emulationEnded || (!s.running && decide (l = .emulation))) := by
  unfold pollRunning; split <;> simp_all
@[simp] theorem pollRunning_presentationEnded (l : Loop) :
    (pollRunning l s).presentationEnded = (s.presentationEnded || (!s.running && decide (l = .presentation))) := by
  unfold pollRunning; split <;> simp_all

@[simp] theorem takeEntry_strobe (rest : List Event) : (takeEntry rest s).strobe = s.strobe := rfl
@[simp] theorem takeEntry_shift1 (rest : List Event) : (takeEntry rest s).shift1 = s.shift1 := rfl
@[simp] theorem takeEntry_shift2 (rest : List Event) : (takeEntry rest s).shift2 = s.shift2 := rfl
@[simp] theorem takeEntry_snapshot (rest : List Event) : (takeEntry rest s).snapshot = s.snapshot := rfl
@[simp] theorem takeEntry_gunX (rest : List Event) : (takeEntry rest s).gunX = s.gunX := rfl
@[simp] theorem takeEntry_gunY (rest : List Event) : (takeEntry rest s).gunY = s.gunY := rfl
@[simp] theorem takeEntry_trigger (rest : List Event) : (takeEntry rest s).trigger = s.trigger := rfl
@[simp] theorem takeEntry_lightSensed (rest : List Event) : (takeEntry rest s).lightSensed = s.lightSensed := rfl
@[simp] theorem takeEntry_connected (rest : List Event) : (takeEntry rest s).connected = s.connected := rfl
@[simp] theorem takeEntry_irq (rest : List Event) : (takeEntry rest s).irq = s.irq := rfl
@[simp] theorem takeEntry_slot (rest : List Event) : (takeEntry rest s).slot = s.slot := rfl
@[simp] theorem takeEntry_flock (rest : List Event) : (takeEntry rest s).flock = s.flock := rfl
@[simp] theorem takeEntry_buf (rest : List Event) : (takeEntry rest s).buf = s.buf := rfl
@[simp] theorem takeEntry_wr (rest : List Event) : (takeEntry rest s).wr = s.wr := rfl
@[simp] theorem takeEntry_rd (rest : List Event) : (takeEntry rest s).rd = s.rd := rfl
@[simp] theorem takeEntry_overrunDropped (rest : List Event) : (takeEntry rest s).overrunDropped = s.overrunDropped := rfl
@[simp] theorem takeEntry_running (rest : List Event) : (takeEntry rest s).running = s.running := rfl
@[simp] theorem takeEntry_fprod (rest : List Event) : (takeEntry rest s).fprod = s.fprod := rfl
@[simp] theorem takeEntry_fcons (rest : List Event) : (takeEntry rest s).fcons = s.fcons := rfl
@[simp] theorem takeEntry_aprod (rest : List Event) : (takeEntry rest s).aprod = s.aprod := rfl
@[simp] theorem takeEntry_acons (rest : List Event) : (takeEntry rest s).acons = s.acons := rfl
@[simp] theorem takeEntry_started (rest : List Event) : (takeEntry rest s).started = true := rfl
@[simp] theorem takeEntry_emulationEnded (rest : List Event) : (takeEntry rest s).emulationEnded = s.emulationEnded := rfl
@[simp] theorem takeEntry_presentationEnded (rest : List Event) : (takeEntry rest s).presentationEnded = s.presentationEnded := rfl
@[simp] theorem takeEntry_cfg (rest : List Event) : (takeEntry rest s).cfg = s.cfg := rfl
@[simp] theorem takeEntry_frames (rest : List Event) : (takeEntry rest s).frames = s.frames := rfl
@[simp] theorem takeEntry_inbox (rest : List Event) : (takeEntry rest s).inbox = rest := rfl
@[simp] theorem takeEntry_calls (rest : List Event) : (takeEntry rest s).calls = s.calls := rfl
@[simp] theorem takeEntry_raised (rest : List Event) : (takeEntry rest s).raised = s.raised := rfl
@[simp] theorem takeEntry_result (rest : List Event) : (takeEntry rest s).result = s.result := rfl
@[simp] theorem takeEntry_draws (rest : List Event) : (takeEntry rest s).draws = s.draws := rfl

end Sys2Proof.Machine
end

