-- ==== Sys2Proof/Laws/Ring.lean ====
section
/-! SUPPORT. Laws of the ring: cursor arithmetic across the wrap (45_audio_ring.md R184) and runs of samples. -/

namespace Sys2Proof.Machine

/-- What legal parameters say of the ring (00_scope.md R9). -/
theorem ring_params {p : Params} (h : p.wf = true) :
    0 < p.ringCap ∧ p.ringCap < p.modulus ∧ p.ringCap ∣ p.modulus := by
  simp [Params.wf] at h
  obtain ⟨⟨⟨_, hc⟩, hp⟩, hl⟩ := h
  have hlt : 2 ^ (p.curW - 1) < 2 ^ p.curW := Nat.pow_lt_pow_right (by omega) (by omega)
  refine ⟨by rw [hp]; exact Nat.two_pow_pos _, lt_of_le_of_lt hl hlt, ?_⟩
  rw [hp] at hl ⊢
  exact Nat.pow_dvd_pow 2 (by have := (Nat.pow_le_pow_iff_right (a := 2) (by omega)).1 hl; omega)

/-- With both cursors in range the difference needs no negative number. -/
theorem availOf_eq {p : Params} {wr rd : Nat} (hw : wr < p.modulus) (hr : rd < p.modulus) :
    availOf p wr rd = if rd ≤ wr then wr - rd else wr + p.modulus - rd := by
  unfold availOf
  split
  · rename_i h
    rw [show ((wr : Int) - rd) = ((wr - rd : Nat) : Int) by omega]
    rw [← Int.natCast_mod, Int.toNat_natCast, Nat.mod_eq_of_lt (by omega)]
  · rename_i h
    rw [← Int.add_emod_right, show ((wr : Int) - rd + p.modulus) = ((wr + p.modulus - rd : Nat) : Int) by omega]
    rw [← Int.natCast_mod, Int.toNat_natCast, Nat.mod_eq_of_lt (by omega)]

theorem availOf_lt {p : Params} {wr rd : Nat} (hw : wr < p.modulus) (hr : rd < p.modulus) :
    availOf p wr rd < p.modulus := by rw [availOf_eq hw hr]; split <;> omega

theorem advanceCursor_lt {p : Params} {c k : Nat} : advanceCursor p c k < p.modulus :=
  Nat.mod_lt _ (Nat.two_pow_pos _)

theorem advanceCursor_eq {p : Params} {c k : Nat} (hc : c < p.modulus) (hk : k < p.modulus) :
    advanceCursor p c k = if c + k < p.modulus then c + k else c + k - p.modulus := by
  unfold advanceCursor
  split
  · exact Nat.mod_eq_of_lt ‹_›
  · rw [Nat.mod_eq_sub_mod (by omega), Nat.mod_eq_of_lt (by omega)]

/-- Pushing `k` samples raises the available count by `k`, across the wrap too (R184). -/
theorem availOf_push {p : Params} {wr rd k : Nat} (hw : wr < p.modulus) (hr : rd < p.modulus)
    (hk : availOf p wr rd + k < p.modulus) : availOf p (advanceCursor p wr k) rd = availOf p wr rd + k := by
  rw [availOf_eq hw hr] at hk ⊢
  rw [availOf_eq advanceCursor_lt hr, advanceCursor_eq hw (by split at hk <;> omega)]
  split at hk <;> split <;> split <;> omega

/-- Pulling `n` available samples lowers it by `n` (R184). -/
theorem availOf_pull {p : Params} {wr rd n : Nat} (hw : wr < p.modulus) (hr : rd < p.modulus)
    (hn : n ≤ availOf p wr rd) : availOf p wr (advanceCursor p rd n) = availOf p wr rd - n := by
  have hlt := availOf_lt hw hr
  rw [availOf_eq hw hr] at hn hlt ⊢
  rw [availOf_eq hw advanceCursor_lt, advanceCursor_eq hr (by omega)]
  split at hn <;> split <;> split <;> omega

/-- What APUSH accepts fits (R175). -/
theorem acceptOf_fits {p : Params} {wr rd n : Nat} (h : availOf p wr rd ≤ p.ringCap) :
    acceptOf p wr rd n ≤ n ∧ availOf p wr rd + acceptOf p wr rd n ≤ p.ringCap := by
  unfold acceptOf freeOf; omega

/-! Runs of samples. -/

theorem loadRun_length (cap : Nat) (m : Memory 16) (c n : Nat) : (loadRun cap m c n).length = n := by
  simp [loadRun]

theorem loadRun_add (cap : Nat) (m : Memory 16) (c n k : Nat) :
    loadRun cap m c (n + k) = loadRun cap m c n ++ loadRun cap m (c + n) k := by
  simp [loadRun, List.range_add, Nat.add_assoc]

/-- A run reads the same from a cursor reduced modulo a multiple of the capacity. -/
theorem loadRun_mod {cap M : Nat} (h : cap ∣ M) (m : Memory 16) (c n : Nat) :
    loadRun cap m (c % M) n = loadRun cap m c n := by
  unfold loadRun
  refine List.map_congr_left fun i _ => ?_
  rw [Nat.add_mod, Nat.mod_mod_of_dvd _ h, ← Nat.add_mod]

theorem storeRun_append (cap : Nat) (m : Memory 16) (c : Nat) (xs ys : List Sample) :
    storeRun cap m c (xs ++ ys) = storeRun cap (storeRun cap m c xs) (c + xs.length) ys := by
  induction xs generalizing m c with
  | nil => simp [storeRun]
  | cons x xs ih => simp only [List.cons_append, storeRun, ih, List.length_cons]; congr 1; omega

theorem wf_storeRun {cap : Nat} {m : Memory 16} {c : Nat} {xs : List Sample} (hcap : 0 < cap)
    (hm : Memory.wf cap m = true) : Memory.wf cap (storeRun cap m c xs) = true := by
  induction xs generalizing m c with
  | nil => exact hm
  | cons x xs ih => exact ih (Memory.wf_write hm (Nat.mod_lt _ hcap))

/-- A run of samples touches only its own slots. -/
theorem read_storeRun_other {cap : Nat} {m : Memory 16} {c j : Nat} {xs : List Sample}
    (h : ∀ i, i < xs.length → (c + i) % cap ≠ j) : Memory.read (storeRun cap m c xs) j = Memory.read m j := by
  induction xs generalizing m c with
  | nil => rfl
  | cons x xs ih =>
    have h0 := h 0 (by simp)
    rw [storeRun, ih, Memory.read_write_other]
    · exact fun e => h0 (by simpa using e.symm)
    · intro i hi
      have := h (i + 1) (by simpa using hi)
      rwa [show c + 1 + i = c + (i + 1) by omega]

/-- Two positions less than a capacity apart name different slots. -/
theorem slots_apart {cap a b : Nat} (h1 : a < b) (h2 : b < a + cap) : a % cap ≠ b % cap := by
  intro e
  have hd : cap ∣ b - a := (Nat.modEq_iff_dvd' (by omega)).1 e
  have := Nat.le_of_dvd (by omega) hd
  omega

/-- A run of at most the capacity reads back as stored (R175, R176). -/
theorem loadRun_storeRun {cap : Nat} {m : Memory 16} {c : Nat} {xs : List Sample} (hm : Memory.wf cap m = true)
    (hcap : 0 < cap) (hl : xs.length ≤ cap) : loadRun cap (storeRun cap m c xs) c xs.length = xs := by
  induction xs generalizing m c with
  | nil => rfl
  | cons x xs ih =>
    have hlen : xs.length + 1 ≤ cap := by simpa using hl
    have hih := ih (m := Memory.write m (c % cap) x) (c := c + 1) (Memory.wf_write hm (Nat.mod_lt _ hcap)) (by omega)
    have hsplit := loadRun_add cap (storeRun cap m c (x :: xs)) c 1 xs.length
    rw [List.length_cons, Nat.add_comm, hsplit]
    simp only [storeRun] at hih ⊢
    rw [hih]
    have hx : Memory.read (storeRun cap (Memory.write m (c % cap) x) (c + 1) xs) (c % cap) = x := by
      rw [read_storeRun_other, Memory.read_write_same hm]
      intro i hi
      exact (slots_apart (a := c) (b := c + 1 + i) (by omega) (by omega)).symm
    simp [loadRun, hx]

/-- A run stored past another leaves it as it was. -/
theorem loadRun_storeRun_before {cap : Nat} {m : Memory 16} {c n : Nat} {xs : List Sample}
    (hl : n + xs.length ≤ cap) : loadRun cap (storeRun cap m (c + n) xs) c n = loadRun cap m c n := by
  unfold loadRun
  refine List.map_congr_left fun i hi => ?_
  rw [List.mem_range] at hi
  refine read_storeRun_other fun j hj => ?_
  exact (slots_apart (a := c + i) (b := c + n + j) (by omega) (by omega)).symm

/-- A run depends on its cursor modulo the capacity only. -/
theorem storeRun_congr {cap : Nat} {m : Memory 16} {c c' : Nat} {xs : List Sample} (h : c % cap = c' % cap) :
    storeRun cap m c xs = storeRun cap m c' xs := by
  induction xs generalizing m c c' with
  | nil => rfl
  | cons x xs ih =>
    simp only [storeRun, h]
    exact ih (by rw [Nat.add_mod, h, ← Nat.add_mod])

/-- A run depends on the words it reads only. -/
theorem loadRun_ext {cap : Nat} {m m' : Memory 16} {c n : Nat}
    (h : ∀ i, i < n → Memory.read m ((c + i) % cap) = Memory.read m' ((c + i) % cap)) :
    loadRun cap m c n = loadRun cap m' c n := by
  unfold loadRun
  exact List.map_congr_left fun i hi => h i (by simpa using hi)

theorem loadRun_congr {cap : Nat} {m : Memory 16} {c c' n : Nat} (h : c % cap = c' % cap) :
    loadRun cap m c n = loadRun cap m c' n := by
  unfold loadRun
  refine List.map_congr_left fun i _ => ?_
  rw [Nat.add_mod, h, ← Nat.add_mod]

/-- The first `k` of a run are the run of `k`. -/
theorem loadRun_take {cap : Nat} {m : Memory 16} {c n k : Nat} (h : k ≤ n) :
    (loadRun cap m c n).take k = loadRun cap m c k := by
  obtain ⟨d, rfl⟩ := Nat.exists_eq_add_of_le h
  rw [loadRun_add, List.take_left' (loadRun_length ..)]

/-- A run without its first `k` starts `k` later. -/
theorem loadRun_drop {cap : Nat} {m : Memory 16} {c n k : Nat} (h : k ≤ n) :
    (loadRun cap m c n).drop k = loadRun cap m (c + k) (n - k) := by
  obtain ⟨d, rfl⟩ := Nat.exists_eq_add_of_le h
  rw [loadRun_add, List.drop_left' (loadRun_length ..)]
  simp

/-- A slot that holds what a list says reads back as its prefix. -/
theorem loadRun_eq_take {cap : Nat} {m : Memory 16} {c k : Nat} {xs : List Sample} (hk : k ≤ xs.length)
    (h : ∀ i, i < k → Memory.read m ((c + i) % cap) = xs.getD i 0) : loadRun cap m c k = xs.take k := by
  apply List.ext_getElem
  · simp [loadRun, hk]
  · intro i h1 h2
    simp [loadRun] at h1 ⊢
    rw [h i h1]
    simp [List.getD]
    rw [List.getElem?_eq_getElem (by omega)]
    simp

/-- Each sample of a run of at most the capacity stands in its slot (R175). -/
theorem read_storeRun {cap : Nat} {m : Memory 16} {c i : Nat} {xs : List Sample} (hm : Memory.wf cap m = true)
    (hl : xs.length ≤ cap) (hi : i < xs.length) :
    Memory.read (storeRun cap m c xs) ((c + i) % cap) = xs.getD i 0 := by
  have h := congrArg (fun l => l.getD i 0) (loadRun_storeRun hm (c := c) (by omega) hl)
  simp only [loadRun] at h
  rw [← h]
  simp [hi]

/-- The write cursor is the read cursor advanced by what is available, as far as slots go (R177, R184). -/
theorem slot_of_avail {p : Params} {wr rd : Nat} (hp : p.wf = true) (hw : wr < p.modulus) (hr : rd < p.modulus) :
    (rd + availOf p wr rd) % p.ringCap = wr % p.ringCap := by
  obtain ⟨c, hc⟩ := (ring_params hp).2.2
  rw [availOf_eq hw hr]
  split
  · congr 1; omega
  · rw [show rd + (wr + p.modulus - rd) = wr + p.modulus by omega, hc, Nat.add_mul_mod_self_left]

/-! The policy of overwriting the oldest samples (93_implementation_defined.md U1). -/

theorem wfFrom_freeRing (cap draw lo n : Nat) (h : lo + n = cap) :
    Memory.wfFrom cap lo ((List.range' lo n).filterMap fun i =>
      if Config.overwrittenSample draw i = 0 then none else some (i, Config.overwrittenSample draw i)) = true := by
  induction n generalizing lo with
  | zero => rfl
  | succ n ih =>
    rw [List.range'_succ, List.filterMap_cons]
    have := ih (lo + 1) (by omega)
    by_cases hz : Config.overwrittenSample draw lo = 0
    · rw [if_pos hz]
      exact Memory.wfFrom_mono (by omega) this
    · rw [if_neg hz]
      simp only [Memory.wfFrom, this, Bool.and_true, Bool.and_eq_true, decide_eq_true_eq]
      exact ⟨⟨le_refl lo, by omega⟩, hz⟩

/-- Overwritten contents are canonical whatever the samples are. -/
theorem wf_freeRing (cap draw : Nat) : Memory.wf cap (freeRing cap draw) = true := by
  unfold freeRing Memory.wf
  rw [List.range_eq_range']
  exact wfFrom_freeRing cap draw 0 cap (by omega)

/-- Under drop-newest nothing is overwritten. -/
theorem overwriteOldest_dropNewest {s : State} (k n : Nat) (h : s.cfg.overrun = .dropNewest) :
    overwriteOldest k n s = s := by simp [overwriteOldest, h]

/-- A push that fits overwrites nothing. -/
theorem overwriteOldest_fits {s : State} {k n : Nat} (h : n ≤ k) : overwriteOldest k n s = s := by
  simp [overwriteOldest, Nat.not_lt.2 h]

/-- Only the contents and the draw counter can change. -/
theorem overwriteOldest_changes (k n : Nat) (s : State) :
    ∃ b d, overwriteOldest k n s = { s with buf := b, draws := d } ∧
      (Memory.wf s.cfg.ringCap s.buf = true → Memory.wf s.cfg.ringCap b = true) := by
  unfold overwriteOldest
  split
  · exact ⟨_, _, rfl, fun _ => wf_freeRing _ _⟩
  · exact ⟨s.buf, s.draws, rfl, id⟩

end Sys2Proof.Machine
end

