-- ==== Sys2Proof/Laws/Run.lean ====
section
/-! SUPPORT. Runs of operations, one at a time and joined. -/

namespace Sys2Proof.Machine

variable {s t : State} {i : Instr}

@[simp] theorem runOps_nil : runOps [] s = some (s, []) := rfl

/-- A run whose first operation completes goes on from there. -/
theorem runOps_cons (ops : List Instr) (h : exec i s = .next t) :
    runOps (i :: ops) s = (runOps ops t).map (fun r => (r.1, t.result :: r.2)) := by
  simp only [runOps, h]
  cases runOps ops t <;> rfl

/-- A run of two lists is the run of the second from where the first ended. -/
theorem runOps_append (a b : List Instr) : runOps (a ++ b) s =
    (runOps a s).bind (fun r => (runOps b r.1).map (fun q => (q.1, r.2 ++ q.2))) := by
  induction a generalizing s with
  | nil => simp
  | cons i a ih =>
    simp only [List.cons_append, runOps]
    cases exec i s with
    | next t =>
      simp only [ih]
      cases runOps a t with
      | none => rfl
      | some r =>
        simp only [Option.bind]
        cases runOps b r.1 <;> rfl
    | fault r => rfl
    | refused r => rfl

end Sys2Proof.Machine
end

