-- ==== Sys2Proof/Laws/Step.lean ====
section
/-! SUPPORT. Everything a step can do, said once. -/

namespace Sys2Proof.Machine

variable {s t : State}

/-- What admission asks of an operation. -/
theorem admitted_ok {agent : Agent} {what : Presented} {i : Instr} (h : admitted s agent what = .ok i) :
    decode s.cfg what = .ok i ∧ owns agent i = true ∧ threadEnded s (threadOf agent) = false ∧
      threadBusy s (threadOf agent) = false ∧ (channelUse i = .reset → s.started = false) := by
  unfold admitted at h
  split at h
  · cases h
  · rename_i i' hd
    split at h
    · cases h
    · rename_i ho
      split at h
      · cases h
      · rename_i he
        split at h
        · cases h
        · rename_i hb
          split at h
          · cases h
          · rename_i hr
            cases h
            exact ⟨hd, by simpa using ho, by simpa using he, by simpa using hb,
              fun hc => Bool.eq_false_iff.2 fun hs => hr ⟨hs, hc⟩⟩

/-- Some agent that may present `i` is on a thread that has not ended and has no operation in progress. -/
def presentable (i : Instr) (s : State) : Prop :=
  ∃ agent, owns agent i = true ∧ threadEnded s (threadOf agent) = false ∧ threadBusy s (threadOf agent) = false

theorem admitted_presentable {agent : Agent} {what : Presented} {i : Instr} (h : admitted s agent what = .ok i) :
    presentable i s :=
  ⟨agent, (admitted_ok h).2.1, (admitted_ok h).2.2.1, (admitted_ok h).2.2.2.1⟩

/-- An operation of the emulation thread's end is presented while that thread runs nothing (20_memory.md R54). -/
theorem presentable_fpub {f : BitVec 24} (h : presentable (.fpub f) s) :
    s.emulationEnded = false ∧ s.fprod = none ∧ s.aprod = none := by
  obtain ⟨agent, ho, he, hb⟩ := h
  have ha := of_decide_eq_true (by simpa [owns] using ho)
  subst ha
  simpa [owner, threadOf, threadEnded, threadBusy] using And.intro he hb

theorem presentable_apush {xs : List Sample} (h : presentable (.apush xs) s) :
    s.emulationEnded = false ∧ s.fprod = none ∧ s.aprod = none := by
  obtain ⟨agent, ho, he, hb⟩ := h
  have ha := of_decide_eq_true (by simpa [owns] using ho)
  subst ha
  simpa [owner, threadOf, threadEnded, threadBusy] using And.intro he hb

theorem presentable_facq (h : presentable .facq s) : s.presentationEnded = false ∧ s.fcons = none := by
  obtain ⟨agent, ho, he, hb⟩ := h
  have ha := of_decide_eq_true (by simpa [owns] using ho)
  subst ha
  simpa [owner, threadOf, threadEnded, threadBusy] using And.intro he hb

theorem channelUse_publish {i : Instr} {f : BitVec 24} (h : channelUse i = .publish f) : i = .fpub f := by
  cases i <;> simp_all [channelUse]

theorem channelUse_acquire {i : Instr} (h : channelUse i = .acquire) : i = .facq := by
  cases i <;> simp_all [channelUse]

theorem channelUse_push {i : Instr} {xs : List Sample} (h : channelUse i = .push xs) : i = .apush xs := by
  cases i <;> simp_all [channelUse]

theorem channelUse_pull {i : Instr} {n : Nat} (h : channelUse i = .pull n) : i = .apull n := by
  cases i <;> simp_all [channelUse]

theorem channelUse_reset {i : Instr} (h : channelUse i = .reset) : i = .reset := by
  cases i <;> simp_all [channelUse]

/-- Beginning an operation records it as in progress and does nothing else. -/
theorem begins_effect {i : Instr} (h : begins i s = some (.next t)) :
    (∃ f F, i = .fpub f ∧ frameOf s f = some F ∧ s.fprod = none ∧
        t = { s with fprod := some { frame := F, stage := .lock }, result := .none }) ∨
      (i = .facq ∧ s.fcons = none ∧ t = { s with fcons := some .lock, result := .none }) ∨
      (∃ xs, i = .apush xs ∧ s.aprod = none ∧
        t = { s with aprod := some { samples := xs, stage := .claim }, result := .none }) ∨
      (∃ n, i = .apull n ∧ s.acons = none ∧
        t = { s with acons := some { count := n, stage := .claim }, result := .none }) := by
  unfold begins at h
  split at h
  · rename_i f hf
    simp only [beginFpub, Option.some.injEq] at h
    split at h
    · cases h
    · split at h
      · cases h
      · cases h
        exact .inl ⟨f, _, channelUse_publish hf, by assumption, Option.not_isSome_iff_eq_none.1 (by assumption), rfl⟩
  · rename_i hf
    simp only [beginFacq, Option.some.injEq] at h
    split at h
    · cases h
    · cases h
      exact .inr (.inl ⟨channelUse_acquire hf, Option.not_isSome_iff_eq_none.1 (by assumption), rfl⟩)
  · rename_i xs hf
    simp only [beginApush, Option.some.injEq] at h
    split at h
    · cases h
    · cases h
      exact .inr (.inr (.inl ⟨xs, channelUse_push hf, Option.not_isSome_iff_eq_none.1 (by assumption), rfl⟩))
  · rename_i n hf
    simp only [beginApull, Option.some.injEq] at h
    split at h
    · cases h
    · cases h
      exact .inr (.inr (.inr ⟨n, channelUse_pull hf, Option.not_isSome_iff_eq_none.1 (by assumption), rfl⟩))
  · cases h
  · cases h

/-- When a loop loads the running flag, and what that does (20_memory.md R58). -/
theorem poll_next {loop : Loop} (h : poll loop s = .next t) :
    threadEnded s (threadOfLoop loop) = false ∧ threadBusy s (threadOfLoop loop) = false ∧ t = pollRunning loop s := by
  unfold poll at h
  split at h
  · cases h
  · split at h
    · cases h
    · cases h
      exact ⟨Bool.eq_false_iff.2 (by assumption), Bool.eq_false_iff.2 (by assumption), rfl⟩

/-- Taking an entry leaves every thread as it was. -/
@[simp] theorem threadEnded_takeEntry (rest : List Event) (th : Thread) :
    threadEnded (takeEntry rest s) th = threadEnded s th := by cases th <;> rfl

@[simp] theorem threadBusy_takeEntry (rest : List Event) (th : Thread) :
    threadBusy (takeEntry rest s) th = threadBusy s th := by cases th <;> rfl

theorem presentable_takeEntry {rest : List Event} {i : Instr} (h : presentable i s) : presentable i (takeEntry rest s) := by
  obtain ⟨agent, ho, he, hb⟩ := h
  exact ⟨agent, ho, by simpa using he, by simpa using hb⟩

/-- What a step that answers a next state did. -/
theorem step_cases (h : step s = .next t) :
    (s.inbox = [] ∧ t = s) ∨
      (∃ side n rest, s.inbox = .advance side n :: rest ∧ advance side n { s with inbox := rest } = .next t) ∨
      (∃ loop rest, s.inbox = .poll loop :: rest ∧ threadEnded s (threadOfLoop loop) = false ∧
        threadBusy s (threadOfLoop loop) = false ∧ t = pollRunning loop (takeEntry rest s)) ∨
      (∃ agent grain what rest i, s.inbox = .present agent grain what :: rest ∧ admitted s agent what = .ok i ∧
        ((exec i (takeEntry rest s) = .next t ∧ (grain = .stepwise → begins i (takeEntry rest s) = none)) ∨
          (grain = .stepwise ∧ begins i (takeEntry rest s) = some (.next t)))) := by
  unfold step at h
  split at h
  · cases h; exact .inl ⟨by assumption, rfl⟩
  · exact .inr (.inl ⟨_, _, _, by assumption, h⟩)
  · rename_i loop rest hin
    obtain ⟨he, hb, ht⟩ := poll_next h
    exact .inr (.inr (.inl ⟨loop, rest, hin, by cases loop <;> exact he, by cases loop <;> exact hb, ht⟩))
  · rename_i agent grain what rest hin
    refine .inr (.inr (.inr ?_))
    split at h
    · cases h
    · rename_i i hi
      split at h
      · exact ⟨agent, _, what, rest, i, hin, hi, .inl ⟨h, by simp⟩⟩
      · split at h
        · subst h
          exact ⟨agent, _, what, rest, i, hin, hi, .inr ⟨rfl, by assumption⟩⟩
        · exact ⟨agent, _, what, rest, i, hin, hi, .inl ⟨h, fun _ => by assumption⟩⟩

/-- What every part of a step keeps, a step keeps: the parts are taking an entry from the inbox, a protocol step, a load
of the running flag, an operation that may be presented, and beginning one. -/
theorem step_keeps {P : State → Prop} (hinbox : ∀ s l, P s → P { s with inbox := l })
    (hentry : ∀ s l, P s → P (takeEntry l s))
    (hadvance : ∀ side n s t, P s → advance side n s = .next t → P t)
    (hpoll : ∀ loop s, P s → s.started = true → threadBusy s (threadOfLoop loop) = false → P (pollRunning loop s))
    (hexec : ∀ i s t, P s → s.started = true → presentable i s → exec i s = .next t → P t)
    (hpublish : ∀ s f F, P s → s.started = true → presentable (.fpub f) s → frameOf s f = some F → s.fprod = none →
      P { s with fprod := some { frame := F, stage := .lock }, result := .none })
    (hacquire : ∀ s, P s → s.started = true → presentable .facq s → s.fcons = none →
      P { s with fcons := some .lock, result := .none })
    (hpush : ∀ s xs, P s → s.started = true → presentable (.apush xs) s → s.aprod = none →
      P { s with aprod := some { samples := xs, stage := .claim }, result := .none })
    (hpull : ∀ s n, P s → s.started = true → presentable (.apull n) s → s.acons = none →
      P { s with acons := some { count := n, stage := .claim }, result := .none })
    (hs : P s) (h : step s = .next t) : P t := by
  rcases step_cases h with ⟨_, rfl⟩ | ⟨side, n, rest, _, ha⟩ | ⟨loop, rest, _, _, hb, rfl⟩ |
    ⟨_, _, _, rest, i, _, hi, he⟩
  · exact hs
  · exact hadvance side n _ t (hinbox s rest hs) ha
  · exact hpoll loop _ (hentry s rest hs) rfl (by simpa using hb)
  · have hp : presentable i (takeEntry rest s) := presentable_takeEntry (admitted_presentable hi)
    have ht := hentry s rest hs
    rcases he with ⟨he, _⟩ | ⟨_, hb⟩
    · exact hexec i _ t ht rfl hp he
    · rcases begins_effect hb with ⟨f, F, rfl, hF, hn, rfl⟩ | ⟨rfl, hn, rfl⟩ | ⟨xs, rfl, hn, rfl⟩ | ⟨n, rfl, hn, rfl⟩
      · exact hpublish _ f F ht rfl hp hF hn
      · exact hacquire _ ht rfl hp hn
      · exact hpush _ xs ht rfl hp hn
      · exact hpull _ n ht rfl hp hn

/-! What a protocol step leaves alone. -/

theorem advance_fixed_fields {side : Side} {n : Nat} (h : advance side n s = .next t) :
    t.cfg = s.cfg ∧ t.frames = s.frames ∧ t.inbox = s.inbox ∧ t.gunX = s.gunX ∧ t.gunY = s.gunY ∧ t.irq = s.irq := by
  cases side
  · simp only [advance, advancePublish] at h
    repeat' split at h
    all_goals (cases h; exact ⟨rfl, rfl, rfl, rfl, rfl, rfl⟩)
  · simp only [advance, advanceAcquire] at h
    repeat' split at h
    all_goals (cases h; exact ⟨rfl, rfl, rfl, rfl, rfl, rfl⟩)
  · simp only [advance, advancePush, publishSamples, overwriteOldest] at h
    repeat' split at h
    all_goals (cases h; try exact ⟨rfl, rfl, rfl, rfl, rfl, rfl⟩)
  · simp only [advance, advancePull] at h
    repeat' split at h
    all_goals (cases h; exact ⟨rfl, rfl, rfl, rfl, rfl, rfl⟩)

/-- A protocol step leaves the running flag and the loops alone (60_exceptions.md R216). -/
theorem advance_run_fields {side : Side} {n : Nat} (h : advance side n s = .next t) :
    t.running = s.running ∧ t.started = s.started ∧ t.emulationEnded = s.emulationEnded ∧
      t.presentationEnded = s.presentationEnded := by
  cases side
  · simp only [advance, advancePublish] at h
    repeat' split at h
    all_goals (cases h; exact ⟨rfl, rfl, rfl, rfl⟩)
  · simp only [advance, advanceAcquire] at h
    repeat' split at h
    all_goals (cases h; exact ⟨rfl, rfl, rfl, rfl⟩)
  · simp only [advance, advancePush, publishSamples, overwriteOldest] at h
    repeat' split at h
    all_goals (cases h; try exact ⟨rfl, rfl, rfl, rfl⟩)
  · simp only [advance, advancePull] at h
    repeat' split at h
    all_goals (cases h; exact ⟨rfl, rfl, rfl, rfl⟩)

/-- A protocol step begins no operation (44_frame_channel.md R162, 45_audio_ring.md R178, R179). -/
theorem advance_begins_nothing {side : Side} {n : Nat} (h : advance side n s = .next t) :
    (s.fprod = none → t.fprod = none) ∧ (s.fcons = none → t.fcons = none) ∧ (s.aprod = none → t.aprod = none) ∧
      (s.acons = none → t.acons = none) := by
  cases side
  · simp only [advance, advancePublish] at h
    repeat' split at h
    all_goals (cases h; simp_all)
  · simp only [advance, advanceAcquire] at h
    repeat' split at h
    all_goals (cases h; simp_all)
  · simp only [advance, advancePush, publishSamples, overwriteOldest] at h
    repeat' split at h
    all_goals (cases h; simp_all)
  · simp only [advance, advancePull] at h
    repeat' split at h
    all_goals (cases h; simp_all)

/-- A step of the audio protocols leaves the FrameChannel alone (45_audio_ring.md R182). -/
theorem advance_audio_frame_fields {side : Side} {n : Nat} (hs : side = .audioProducer ∨ side = .audioConsumer)
    (h : advance side n s = .next t) :
    t.slot = s.slot ∧ t.flock = s.flock ∧ t.fprod = s.fprod ∧ t.fcons = s.fcons := by
  rcases hs with rfl | rfl
  · simp only [advance, advancePush, publishSamples, overwriteOldest] at h
    repeat' split at h
    all_goals (cases h; try exact ⟨rfl, rfl, rfl, rfl⟩)
  · simp only [advance, advancePull] at h
    repeat' split at h
    all_goals (cases h; exact ⟨rfl, rfl, rfl, rfl⟩)

/-- A step of the frame protocol leaves the AudioRing alone (45_audio_ring.md R182). -/
theorem advance_frame_ring_fields {side : Side} {n : Nat} (hs : side = .frameProducer ∨ side = .frameConsumer)
    (h : advance side n s = .next t) :
    t.buf = s.buf ∧ t.wr = s.wr ∧ t.rd = s.rd ∧ t.overrunDropped = s.overrunDropped ∧ t.aprod = s.aprod ∧
      t.acons = s.acons := by
  rcases hs with rfl | rfl
  · simp only [advance, advancePublish] at h
    repeat' split at h
    all_goals (cases h; exact ⟨rfl, rfl, rfl, rfl, rfl, rfl⟩)
  · simp only [advance, advanceAcquire] at h
    repeat' split at h
    all_goals (cases h; exact ⟨rfl, rfl, rfl, rfl, rfl, rfl⟩)

end Sys2Proof.Machine
end

