-- ==== Sys2Proof/Tests/Slice0.lean ====
section
/-! SUPPORT. The model's own tests.  Expected values are those the spec writes out: 95_test_vectors.md (S and V numbers),
the examples of the rules, the tables of 30_encoding.md.  After them, for each obligation with hypotheses, states and
operands that meet them. -/

namespace Sys2Proof.Tests

open Sys2Proof.Machine

/-- The state RS of 95_test_vectors.md. -/
def rs : State := State.reset
/-- RS with a ring of eight samples, as the AudioRing vectors take it. -/
def rs8 : State := { State.reset with cfg := { Params.default with ringCap := 8 } }
/-- A ring of eight with the samples 10 to 14 in it (V32). -/
def five : State := { rs8 with wr := 5, buf := [(0, 10), (1, 11), (2, 12), (3, 13), (4, 14)] }
/-- A frame of the table, by its handle, and no other pixel than these set. -/
def frame1 : Frame := [(0, 0x11111111), (61439, 0x0000EFFF)]
def withFrame : State := { rs with frames := [(1, frame1)] }
/-- RS with LOW_MODE = Unmapped. -/
def lowUnmapped : State := { rs with cfg := { Params.default with lowMode := .unmapped } }
/-- RS with a light gun connected. -/
def gunOn : State := { rs with connected := true }

def after (o : Host.Outcome State Fault Refusal) : Option State :=
  match o with
  | .next t => some t
  | .fault _ => none
  | .refused _ => none

def refusal (o : Host.Outcome State Fault Refusal) : Option Refusal :=
  match o with
  | .next _ => none
  | .fault _ => none
  | .refused r => some r

def ok (e : Except DecodeError Instr) : Option Instr :=
  match e with
  | .ok i => some i
  | .error _ => none

def err (e : Except DecodeError Instr) : Option DecodeError :=
  match e with
  | .ok _ => none
  | .error r => some r

/-- `s` with one operation presented by `agent`. -/
def presents (agent : Agent) (grain : Grain) (what : Presented) (s : State) : State :=
  { s with inbox := [.present agent grain what] }

/-! WellFormed: one ill-formed term for each check (00_scope.md R9, 30_encoding.md R73, R74). -/

theorem test_wf_default : Params.default.wf = true := by decide
theorem test_wf_overlap_low_ppu : AddrMap.wf { AddrMap.default with low := ⟨0x0000, 0x2000⟩ } = false := by decide
theorem test_wf_overlap_low_io : AddrMap.wf { AddrMap.default with low := ⟨0x4000, 0x4000⟩ } = false := by decide
theorem test_wf_overlap_low_cart : AddrMap.wf { AddrMap.default with low := ⟨0x5000, 0x5FFF⟩ } = false := by decide
theorem test_wf_overlap_ppu_io : AddrMap.wf { AddrMap.default with ppu := ⟨0x3FFF, 0x4000⟩ } = false := by decide
theorem test_wf_overlap_ppu_cart : AddrMap.wf { AddrMap.default with ppu := ⟨0x8000, 0x8007⟩ } = false := by decide
theorem test_wf_overlap_io_cart : AddrMap.wf { AddrMap.default with io := ⟨0x4000, 0x4020⟩ } = false := by decide
theorem test_wf_strobe_outside_io : AddrMap.wf { AddrMap.default with strobeAddr := 0x4018 } = false := by decide
theorem test_wf_port1_outside_io : AddrMap.wf { AddrMap.default with port1Addr := 0x3FFF } = false := by decide
theorem test_wf_port2_outside_io : AddrMap.wf { AddrMap.default with port2Addr := 0x4018 } = false := by decide
theorem test_wf_ports_equal : AddrMap.wf { AddrMap.default with port2Addr := 0x4016 } = false := by decide
theorem test_wf_bad_map :
    Params.wf { Params.default with map := { AddrMap.default with port2Addr := 0x4016 } } = false := by decide
theorem test_wf_ppu_width_zero : Params.wf { Params.default with ppuAddrW := 0 } = false := by decide
theorem test_wf_ppu_width_17 : Params.wf { Params.default with ppuAddrW := 17 } = false := by decide
theorem test_wf_source_frame_counter_high :
    Params.wf { Params.default with irqSources := ⟨8, 1, 2⟩ } = false := by decide
theorem test_wf_source_mapper_high : Params.wf { Params.default with irqSources := ⟨0, 8, 2⟩ } = false := by decide
theorem test_wf_source_dmc_high : Params.wf { Params.default with irqSources := ⟨0, 1, 8⟩ } = false := by decide
theorem test_wf_source_frame_is_mapper :
    Params.wf { Params.default with irqSources := ⟨3, 3, 2⟩ } = false := by decide
theorem test_wf_source_frame_is_dmc : Params.wf { Params.default with irqSources := ⟨3, 1, 3⟩ } = false := by decide
theorem test_wf_source_mapper_is_dmc : Params.wf { Params.default with irqSources := ⟨0, 3, 3⟩ } = false := by decide
theorem test_wf_irq_narrow : Params.wf { Params.default with irqW := 7 } = false := by decide
theorem test_wf_cursor_empty : Params.wf { Params.default with curW := 0, ringCap := 1 } = false := by decide
theorem test_wf_ring_not_power : Params.wf { Params.default with ringCap := 8191 } = false := by decide
theorem test_wf_ring_too_big : Params.wf { Params.default with curW := 13 } = false := by decide
theorem test_wf_gundn_below_frame : (Instr.gundn 0 240).wf Params.default = false := by decide
theorem test_wf_irqa_no_source : (Instr.irqa 8).wf Params.default = false := by decide
theorem test_wf_irqk_no_source : (Instr.irqk 8).wf Params.default = false := by decide
theorem test_wf_apush_too_long :
    ∀ l : List Sample, l.length = 0x1000000 → (Instr.apush l).wf Params.default = false := 
    fun l h => decide_eq_false (by rw [h]; decide)
theorem test_wf_apull_too_long : (Instr.apull 0x1000000).wf Params.default = false := by decide
theorem test_wf_row_of_another_map :
    (Instr.cpurPort1).wf { Params.default with map := { AddrMap.default with strobeAddr := 0x4000 } } = false := by decide

/-! Decoding: a word written out field by field, `opc mbz opd`, for every operation word (30_encoding.md R70, R71). -/

/-- V10. -/
theorem test_decode_cpur :
    ok (decode Params.default (.words [0b0000_0000_0100000000011000_00000000])) = some (.cpur 0x4018) := by decide
/-- V120. -/
theorem test_decode_cpuw :
    ok (decode Params.default (.words [0b0001_0000_0100000000010110_00000001])) = some (.cpuw 0x4016 0x01) := by decide
/-- V22. -/
theorem test_decode_ppur :
    ok (decode Params.default (.words [0b0010_0000_0010000000000000_00000000])) = some (.ppur 0x2000) := by decide
/-- V24. -/
theorem test_decode_ppuw :
    ok (decode Params.default (.words [0b0011_0000_0010001111000000_01010101])) = some (.ppuw 0x23C0 0x55) := by decide
/-- V130. -/
theorem test_decode_snap :
    ok (decode Params.default (.words [0b0100_0000_0000000010100101_00000000])) = some (.snap 0x00A5) := by decide
/-- S8. -/
theorem test_decode_gundn :
    ok (decode Params.default (.words [0b0101_0000_01100100_00110010_00000000])) = some (.gundn 100 50) := by decide
/-- R131. -/
theorem test_decode_gunup :
    ok (decode Params.default (.words [0b0110_0000_000000000000000000000000])) = some (.gunup) := by decide
/-- S8. -/
theorem test_decode_guntg :
    ok (decode Params.default (.words [0b0111_0000_000000000000000000000000])) = some (.guntg) := by decide
/-- V82. -/
theorem test_decode_irqa :
    ok (decode Params.default (.words [0b1000_0000_0000000000000000_00000010])) = some (.irqa 2) := by decide
/-- V83. -/
theorem test_decode_irqk :
    ok (decode Params.default (.words [0b1001_0000_0000000000000000_00000000])) = some (.irqk 0) := by decide
/-- R147. -/
theorem test_decode_irqv :
    ok (decode Params.default (.words [0b1010_0000_000000000000000000000000])) = some (.irqv) := by decide
/-- R160. -/
theorem test_decode_fpub :
    ok (decode Params.default (.words [0b1011_0000_000000000000000000000001])) = some (.fpub 1) := by decide
/-- R161. -/
theorem test_decode_facq :
    ok (decode Params.default (.words [0b1100_0000_000000000000000000000000])) = some (.facq) := by decide
/-- S9. -/
theorem test_decode_apull :
    ok (decode Params.default (.words [0b1110_0000_000000000000001000000000])) = some (.apull 512) := by decide
/-- V131. -/
theorem test_decode_reset :
    ok (decode Params.default (.words [0b1111_0000_0000000000000000_00000000])) = some (.reset) := by decide
/-- V131. -/
theorem test_decode_stop :
    ok (decode Params.default (.words [0b1111_0000_0000000000000000_00000001])) = some (.stop) := by decide
/-- V131. -/
theorem test_decode_avail :
    ok (decode Params.default (.words [0b1111_0000_0000000000000000_00000010])) = some (.avail) := by decide
/-- V25. -/
theorem test_decode_setnmi :
    ok (decode Params.default (.words [0b1111_0000_0000000000000001_00000011])) = some (.setnmi true) := by decide
/-- V27. -/
theorem test_decode_ppucfg :
    ok (decode Params.default (.words [0b1111_0000_100_00000_00000001_00000100])) = some (.ppucfg .setMirroringMode 0x01) := by decide
/-- V128. -/
theorem test_decode_apush :
    ok (decode Params.default (.words [0xD0000003, 0xFFEC000A, 0x0000001E])) = some (.apush [10, -20, 30]) := by decide

/-! Illegal words (30_encoding.md R73). -/

/-- V121. -/
theorem test_illegal_mbz : err (decode Params.default (.words [0x01401600])) = some .mbzNotZero := by decide
/-- V122. -/
theorem test_illegal_cpur_low : err (decode Params.default (.words [0x00401601])) = some .fieldNotZero := by decide
/-- V123. -/
theorem test_illegal_gunup_operand :
    err (decode Params.default (.words [0x60000001])) = some .fieldNotZero := by decide
/-- V124. -/
theorem test_illegal_sys_sub : err (decode Params.default (.words [0xF0000005])) = some .reservedSub := by decide
/-- V125. -/
theorem test_illegal_ppucfg_k : err (decode Params.default (.words [0xF0A00004])) = some .reservedSetter := by decide
/-- V126. -/
theorem test_illegal_setnmi_arg : err (decode Params.default (.words [0xF0000203])) = some .fieldNotZero := by decide
/-- V127. -/
theorem test_illegal_irqa_high : err (decode Params.default (.words [0x80000102])) = some .fieldNotZero := by decide
/-- V62. -/
theorem test_illegal_gundn_row : err (decode Params.default (.words [0x5000F000])) = some .outsideFrame := by decide
/-- V85. -/
theorem test_illegal_irqa_source : err (decode Params.default (.words [0x80000008])) = some .noSuchSource := by decide
/-- V129. -/
theorem test_illegal_apush_odd_half :
    err (decode Params.default (.words [0xD0000003, 0xFFEC000A, 0x0001001E])) = some .payloadHighHalf := by decide
/-- R73. -/
theorem test_illegal_apush_short :
    err (decode Params.default (.words [0xD0000003, 0xFFEC000A])) = some .payloadLength := by decide
/-- R78. -/
theorem test_illegal_trailing :
    err (decode Params.default (.words [0xC0000000, 0x00000000])) = some .trailingWords := by decide
/-- R70. -/
theorem test_illegal_none : err (decode Params.default (.words [])) = some .noWord := by decide

/-! The address decode, a first or last address of each row (30_encoding.md R74; regions V1 to V20). -/

theorem test_decode_row_low0000 :
    ok (decode Params.default (.busRead 0b0001_1111_1111_1111)) = some (.cpurLow0000 0x1FFF) ∧
      ok (decode Params.default (.busWrite 0b0001_1111_1111_1111 0x5A)) = some (.cpuwLow0000 0x1FFF 0x5A) := by decide
theorem test_decode_row_ppu2000 :
    ok (decode Params.default (.busRead 0b0011_1111_1111_1010)) = some (.cpurPpu2000 0x1FFA) ∧
      ok (decode Params.default (.busWrite 0b0011_1111_1111_1010 0x5A)) = some (.cpuwPpu2000 0x1FFA 0x5A) := by decide
theorem test_decode_row_io4000 :
    ok (decode Params.default (.busRead 0b0100_0000_0000_1111)) = some (.cpurIo4000 0xF) ∧
      ok (decode Params.default (.busWrite 0b0100_0000_0000_1111 0x5A)) = some (.cpuwIo4000 0xF 0x5A) := by decide
theorem test_decode_row_io4010 :
    ok (decode Params.default (.busRead 0b0100_0000_0001_0011)) = some (.cpurIo4010 3) ∧
      ok (decode Params.default (.busWrite 0b0100_0000_0001_0011 0x5A)) = some (.cpuwIo4010 3 0x5A) := by decide
theorem test_decode_row_io4014 :
    ok (decode Params.default (.busRead 0b0100_0000_0001_0100)) = some (.cpurIo4014 0) ∧
      ok (decode Params.default (.busWrite 0b0100_0000_0001_0100 0x5A)) = some (.cpuwIo4014 0 0x5A) := by decide
theorem test_decode_row_unmapped4018 :
    ok (decode Params.default (.busRead 0b0100_0000_0001_1111)) = some (.cpurUnmapped4018 7) ∧
      ok (decode Params.default (.busWrite 0b0100_0000_0001_1111 0x5A)) = some (.cpuwUnmapped4018 7 0x5A) := by decide
theorem test_decode_row_cart4020 :
    ok (decode Params.default (.busRead 0b0100_0000_0010_0000)) = some (.cpurCart4020 0) ∧
      ok (decode Params.default (.busWrite 0b0100_0000_0010_0000 0x5A)) = some (.cpuwCart4020 0 0x5A) := by decide
theorem test_decode_row_cart4040 :
    ok (decode Params.default (.busRead 0b0100_0000_0111_1111)) = some (.cpurCart4040 0x3F) ∧
      ok (decode Params.default (.busWrite 0b0100_0000_0111_1111 0x5A)) = some (.cpuwCart4040 0x3F 0x5A) := by decide
theorem test_decode_row_cart4080 :
    ok (decode Params.default (.busRead 0b0100_0000_1000_0000)) = some (.cpurCart4080 0) ∧
      ok (decode Params.default (.busWrite 0b0100_0000_1000_0000 0x5A)) = some (.cpuwCart4080 0 0x5A) := by decide
theorem test_decode_row_cart4100 :
    ok (decode Params.default (.busRead 0b0100_0001_1111_1111)) = some (.cpurCart4100 0xFF) ∧
      ok (decode Params.default (.busWrite 0b0100_0001_1111_1111 0x5A)) = some (.cpuwCart4100 0xFF 0x5A) := by decide
theorem test_decode_row_cart4200 :
    ok (decode Params.default (.busRead 0b0100_0010_0000_0000)) = some (.cpurCart4200 0) ∧
      ok (decode Params.default (.busWrite 0b0100_0010_0000_0000 0x5A)) = some (.cpuwCart4200 0 0x5A) := by decide
theorem test_decode_row_cart4400 :
    ok (decode Params.default (.busRead 0b0100_0111_1111_1111)) = some (.cpurCart4400 0x3FF) ∧
      ok (decode Params.default (.busWrite 0b0100_0111_1111_1111 0x5A)) = some (.cpuwCart4400 0x3FF 0x5A) := by decide
theorem test_decode_row_cart4800 :
    ok (decode Params.default (.busRead 0b0100_1000_0000_0000)) = some (.cpurCart4800 0) ∧
      ok (decode Params.default (.busWrite 0b0100_1000_0000_0000 0x5A)) = some (.cpuwCart4800 0 0x5A) := by decide
theorem test_decode_row_cart5000 :
    ok (decode Params.default (.busRead 0b0101_1111_1111_1111)) = some (.cpurCart5000 0xFFF) ∧
      ok (decode Params.default (.busWrite 0b0101_1111_1111_1111 0x5A)) = some (.cpuwCart5000 0xFFF 0x5A) := by decide
theorem test_decode_row_cart6000 :
    ok (decode Params.default (.busRead 0b0110_0000_0000_0000)) = some (.cpurCart6000 0) ∧
      ok (decode Params.default (.busWrite 0b0110_0000_0000_0000 0x5A)) = some (.cpuwCart6000 0 0x5A) := by decide
theorem test_decode_row_cart8000 :
    ok (decode Params.default (.busRead 0b1111_1111_1111_1111)) = some (.cpurCart8000 0x7FFF) ∧
      ok (decode Params.default (.busWrite 0b1111_1111_1111_1111 0x5A)) = some (.cpuwCart8000 0x7FFF 0x5A) := by decide
theorem test_decode_row_port1 :
    ok (decode Params.default (.busRead 0b0100_0000_0001_0110)) = some .cpurPort1 ∧
      ok (decode Params.default (.busWrite 0b0100_0000_0001_0110 0x01)) = some (.cpuwStrobe 0x01) := by decide
theorem test_decode_row_port2 :
    ok (decode Params.default (.busRead 0b0100_0000_0001_0111)) = some .cpurPort2 ∧
      ok (decode Params.default (.busWrite 0b0100_0000_0001_0111 0x40)) = some (.cpuwPort2 0x40) := by decide
theorem test_decode_other_map :
    ok (decode { Params.default with map := { AddrMap.default with strobeAddr := 0x4000 } } (.busRead 0x4016)) = some (.cpur 0x4016) := by decide

/-! What the host asks of a table word. -/

theorem test_table_word_snap : decodeTableWord 32 0x4000A500 = some (.snap 0x00A5) := by decide
theorem test_table_word_row : decodeTableWord 16 0x4016 = some .cpurPort1 := by decide
theorem test_fetch_word_runs :
    (after (step (rs.withFetchWord 32 0x4000A500))).map (·.snapshot) = some 0x00A5 := by decide
theorem test_fetch_word_fpub : (after (step (rs.withFetchWord 32 0xB0000007))).isSome = true := by decide
theorem test_fetch_word_apush : (after (step (rs.withFetchWord 32 0xD0000003))).map (·.wr) = some 3 := by decide

/-! Text and pseudo-operations (30_encoding.md R76, R77). -/

theorem test_text_cpuw : asmText (.cpuw 0x4016 0x01) = "CPUW $4016, #$01".toList := by decide
theorem test_text_apush : asmText (.apush [10, -20, 30]) = "APUSH 3, [10, -20, 30]".toList := by decide
theorem test_strobe_expands :
    Pseudo.expand AddrMap.default false .strobe = [.cpuw 0x4016 0x01, .cpuw 0x4016 0x00] := by decide
theorem test_gunset_same_is_nothing : Pseudo.expand AddrMap.default true (.gunset true) = [] := by decide

/-! One step of each operation. -/

/-- V2: the full address, one call. -/
theorem test_cpur_low :
    (after (exec (.cpur 0x1FFF) rs)).map (fun t => (t.calls, t.draws)) =
      some ([.workRamReads 0x1FFF], 1) := by decide
/-- V4. -/
theorem test_cpur_ppu_mirror :
    (after (exec (.cpur 0x3FFA) rs)).map (fun t => t.calls) =
      some [.ppuReads 0x2002] := by decide
/-- V15. -/
theorem test_cpuw_ppu_mirror :
    (after (exec (.cpuw 0x2008 0x80) rs)).map (fun t => t.calls) =
      some [.ppuWrites 0x2000 0x80] := by decide
/-- V14 with LOW_MODE = Unmapped. -/
theorem test_cpuw_low_unmapped :
    (after (exec (.cpuw 0x0010 0x5A) lowUnmapped)).map (fun t => (t.calls, t.raised)) =
      some ([], [.unmappedWrite 0x0010]) := by decide
/-- V23. -/
theorem test_ppur_not_masked :
    (after (exec (.ppur 0xFFFF) rs)).map (fun t => t.calls) =
      some [.cartPpuReads 0xFFFF] := by decide
/-- V24. -/
theorem test_ppuw :
    (after (exec (.ppuw 0x23C0 0x55) rs)).map (fun t => t.calls) =
      some [.cartPpuWrites 0x23C0 0x55] := by decide
/-- V25. -/
theorem test_setnmi_irq_unchanged :
    (after (exec (.setnmi true) rs)).map (fun t => (t.calls, t.irq)) =
      some ([.setNmi true], 0) := by decide
/-- V26. -/
theorem test_ppucfg :
    (after (exec (.ppucfg .setIrqLatch 0x08) rs)).map (fun t => t.calls) =
      some [.ppuSet .setIrqLatch 0x08] := by decide
/-- V49. -/
theorem test_snap_keeps_shift :
    (after (exec (.snap 0xFFFF) rs)).map (fun t => (t.snapshot, t.shift1, t.strobe)) =
      some (0xFFFF, 0x00, false) := by decide
/-- V61. -/
theorem test_gundn_bounds :
    (after (exec (.gundn 255 239) rs)).map (fun t => (t.gunX, t.gunY, t.trigger, t.connected)) =
      some (255, 239, true, false) := by decide
/-- V64. -/
theorem test_gunup_calls_once :
    (after (exec (.gunup) { rs with gunX := 10, gunY := 20, trigger := true })).map (fun t => (t.calls, t.trigger, t.gunX)) =
      some ([.checkTargetHit 10 20], false, 10) := by decide
/-- R132. -/
theorem test_guntg_clears_both :
    (after (exec (.guntg) { rs with shift1 := 0xD2, shift2 := 0xF0 })).map (fun t => (t.connected, t.shift1, t.shift2)) =
      some (true, 0x00, 0x00) := by decide
/-- R132, both directions; EC2. -/
theorem test_guntg_disconnects :
    (after (exec (.guntg) gunOn)).map (fun t => (t.connected, t.raised)) =
      some (false, [.peripheralToggle]) := by decide
/-- V82. -/
theorem test_irqa_keeps_others :
    (after (exec (.irqa 2) { rs with irq := 0x01 })).map (fun t => t.irq) =
      some 0x05 := by decide
/-- V83. -/
theorem test_irqk_keeps_others :
    (after (exec (.irqk 0) { rs with irq := 0x05 })).map (fun t => t.irq) =
      some 0x04 := by decide
/-- V85. -/
theorem test_irqa_no_source_refused : refusal (exec (.irqa 8) rs) = some .illegalOperand := by decide
/-- R146. -/
theorem test_irqk_no_source_refused : refusal (exec (.irqk 8) rs) = some .illegalOperand := by decide
/-- V88. -/
theorem test_irqv_does_not_acknowledge :
    (after (exec (.irqv) { rs with irq := 0x04 })).map (fun t => (t.result, t.irq)) =
      some (.mask 0x04, 0x04) := by decide
/-- R160: the producer's frame is not changed. -/
theorem test_fpub_copies :
    (after (exec (.fpub 1) withFrame)).map (fun t => (t.slot, t.frames)) =
      some (frame1, [(1, frame1)]) := by decide
/-- V101. -/
theorem test_facq_returns_slot :
    (after (exec (.facq) { rs with slot := frame1 })).map (fun t => (t.result, t.slot)) =
      some (.frame frame1, frame1) := by decide
/-- V100. -/
theorem test_facq_reset_frame :
    (after (exec (.facq) rs)).map (fun t => t.result) =
      some (.frame []) := by decide
/-- V35. -/
theorem test_apush_wraps_and_drops :
    (after (exec (.apush [1, 2, 3, 4, 5, 6, 7]) { rs8 with wr := 5, rd := 3 })).map (fun t => (t.buf, t.wr, t.overrunDropped, t.raised)) =
      some ([(0, 4), (1, 5), (2, 6), (5, 1), (6, 2), (7, 3)], 11, 1, [.audioOverrun 1]) := by decide
/-- V38. -/
theorem test_apush_cursor_wrap :
    (after (exec (.apush [21, 22, 23, 24]) { rs8 with wr := 0xFFFFFFFE, rd := 0xFFFFFFFE })).map (fun t => (t.buf, t.wr)) =
      some ([(0, 23), (1, 24), (6, 21), (7, 22)], 2) := by decide
/-- V32. -/
theorem test_apull_oldest :
    (after (exec (.apull 3) five)).map (fun t => (t.result, t.rd)) =
      some (.samples [10, 11, 12], 3) := by decide
/-- V32. -/
theorem test_apull_silence :
    (after (exec (.apull 8) five)).map (fun t => (t.result, t.rd, t.raised)) =
      some (.samples [0, 0, 0, 0, 0, 0, 0, 0], 0, [.audioUnderrun 8 5]) := by decide
/-- V38. -/
theorem test_avail_across_wrap :
    (after (exec (.avail) { rs8 with wr := 2, rd := 0xFFFFFFFE })).map (fun t => t.result) =
      some (.count 4) := by decide
/-- V140. -/
theorem test_reset_reaches_rs :
    (after (exec (.reset) { rs with strobe := true, irq := 0xFF, running := false, wr := 5 })).map (fun t => t) =
      some rs := by decide
/-- V142. -/
theorem test_stop_only_clears :
    (after (exec (.stop) { rs with irq := 0x04 })).map (fun t => t) =
      some { rs with irq := 0x04, running := false } := by decide
theorem test_row_low0000 :
    (after (exec (.cpurLow0000 0x10) rs)).map (·.calls) = some [.workRamReads 0x0010] ∧
      (after (exec (.cpuwLow0000 0x10 0x5A) rs)).map (·.calls) = some [.workRamWrites 0x0010 0x5A] := by decide
theorem test_row_ppu2000 :
    (after (exec (.cpurPpu2000 0x1FFF) rs)).map (·.calls) = some [.ppuReads 0x2007] ∧
      (after (exec (.cpuwPpu2000 0x1FFF 0x5A) rs)).map (·.calls) = some [.ppuWrites 0x2007 0x5A] := by decide
theorem test_row_io4000 :
    (after (exec (.cpurIo4000 0) rs)).map (·.calls) = some [.apuReads 0x4000] ∧
      (after (exec (.cpuwIo4000 0 0x5A) rs)).map (·.calls) = some [.apuWrites 0x4000 0x5A] := by decide
theorem test_row_io4010 :
    (after (exec (.cpurIo4010 3) rs)).map (·.calls) = some [.apuReads 0x4013] ∧
      (after (exec (.cpuwIo4010 3 0x5A) rs)).map (·.calls) = some [.apuWrites 0x4013 0x5A] := by decide
theorem test_row_io4014 :
    (after (exec (.cpurIo4014 1) rs)).map (·.calls) = some [.apuReads 0x4015] ∧
      (after (exec (.cpuwIo4014 1 0x5A) rs)).map (·.calls) = some [.apuWrites 0x4015 0x5A] := by decide
theorem test_row_cart4020 :
    (after (exec (.cpurCart4020 0) rs)).map (·.calls) = some [.cartCpuReads 0x4020] ∧
      (after (exec (.cpuwCart4020 0 0x5A) rs)).map (·.calls) = some [.cartCpuWrites 0x4020 0x5A] := by decide
theorem test_row_cart4040 :
    (after (exec (.cpurCart4040 0x3F) rs)).map (·.calls) = some [.cartCpuReads 0x407F] ∧
      (after (exec (.cpuwCart4040 0x3F 0x5A) rs)).map (·.calls) = some [.cartCpuWrites 0x407F 0x5A] := by decide
theorem test_row_cart4080 :
    (after (exec (.cpurCart4080 0) rs)).map (·.calls) = some [.cartCpuReads 0x4080] ∧
      (after (exec (.cpuwCart4080 0 0x5A) rs)).map (·.calls) = some [.cartCpuWrites 0x4080 0x5A] := by decide
theorem test_row_cart4100 :
    (after (exec (.cpurCart4100 0xFF) rs)).map (·.calls) = some [.cartCpuReads 0x41FF] ∧
      (after (exec (.cpuwCart4100 0xFF 0x5A) rs)).map (·.calls) = some [.cartCpuWrites 0x41FF 0x5A] := by decide
theorem test_row_cart4200 :
    (after (exec (.cpurCart4200 0) rs)).map (·.calls) = some [.cartCpuReads 0x4200] ∧
      (after (exec (.cpuwCart4200 0 0x5A) rs)).map (·.calls) = some [.cartCpuWrites 0x4200 0x5A] := by decide
theorem test_row_cart4400 :
    (after (exec (.cpurCart4400 0x3FF) rs)).map (·.calls) = some [.cartCpuReads 0x47FF] ∧
      (after (exec (.cpuwCart4400 0x3FF 0x5A) rs)).map (·.calls) = some [.cartCpuWrites 0x47FF 0x5A] := by decide
theorem test_row_cart4800 :
    (after (exec (.cpurCart4800 0) rs)).map (·.calls) = some [.cartCpuReads 0x4800] ∧
      (after (exec (.cpuwCart4800 0 0x5A) rs)).map (·.calls) = some [.cartCpuWrites 0x4800 0x5A] := by decide
theorem test_row_cart5000 :
    (after (exec (.cpurCart5000 0xFFF) rs)).map (·.calls) = some [.cartCpuReads 0x5FFF] ∧
      (after (exec (.cpuwCart5000 0xFFF 0x5A) rs)).map (·.calls) = some [.cartCpuWrites 0x5FFF 0x5A] := by decide
theorem test_row_cart6000 :
    (after (exec (.cpurCart6000 0) rs)).map (·.calls) = some [.cartCpuReads 0x6000] ∧
      (after (exec (.cpuwCart6000 0 0x5A) rs)).map (·.calls) = some [.cartCpuWrites 0x6000 0x5A] := by decide
theorem test_row_cart8000 :
    (after (exec (.cpurCart8000 0x7FFF) rs)).map (·.calls) = some [.cartCpuReads 0xFFFF] ∧
      (after (exec (.cpuwCart8000 0x7FFF 0x5A) rs)).map (·.calls) = some [.cartCpuWrites 0xFFFF 0x5A] := by decide
/-- V11, V18. -/
theorem test_row_unmapped4018 :
    (after (exec (.cpurUnmapped4018 7) rs)).map (fun t => (t.result, t.calls, t.raised)) =
        some (.byte 0x00, [], [.unmappedRead 0x401F]) ∧
      (after (exec (.cpuwUnmapped4018 0 0xFF) rs)).map (fun t => (t.calls, t.raised)) =
        some ([], [.unmappedWrite 0x4018]) := by decide
/-- V41. -/
theorem test_port1_shifts :
    (after (exec (.cpurPort1) { rs with shift1 := 0xA5 })).map (fun t => (t.result, t.shift1)) =
      some (.byte 0x41, 0xD2) := by decide
/-- V66. -/
theorem test_port1_latching :
    (after (exec (.cpurPort1) { rs with strobe := true, snapshot := 0x00A5 })).map (fun t => (t.result, t.shift1)) =
      some (.byte 0x41, 0xA5) := by decide
/-- R112: only bit 0 counts; both bytes are loaded. -/
theorem test_strobe_rises :
    (after (exec (.cpuwStrobe 0xFF) { rs with snapshot := 0x03A5 })).map (fun t => (t.strobe, t.shift1, t.shift2)) =
      some (true, 0xA5, 0x03) := by decide
/-- V20, V44: no reload. -/
theorem test_strobe_low_stays :
    (after (exec (.cpuwStrobe 0xFE) { rs with shift1 := 0xE0, snapshot := 0x00FF })).map (fun t => (t.strobe, t.shift1)) =
      some (false, 0xE0) := by decide
/-- V46. -/
theorem test_port2_latching :
    (after (exec (.cpurPort2) { rs with strobe := true, snapshot := 0x0100 })).map (fun t => (t.result, t.shift2)) =
      some (.byte 0x41, 0x01) := by decide
/-- V60: trigger held, no light sensed. -/
theorem test_port2_gun :
    (after (exec (.cpurPort2) { gunOn with trigger := true })).map (fun t => (t.result, t.shift2)) =
      some (.byte 0x58, 0x00) := by decide
/-- V16. -/
theorem test_port2_write_is_apu :
    (after (exec (.cpuwPort2 0x40) rs)).map (fun t => (t.calls, t.strobe)) =
      some ([.apuWrites 0x4017 0x40], false) := by decide

/-! The protocols step by step, and what a step refuses. -/

theorem test_step_operation :
    (after (step (presents .cpuMaster .atomic (.busWrite 0x4016 0x01) rs))).map (fun t => (t.strobe, t.inbox)) =
      some (true, []) := by decide
/-- R211. -/
theorem test_step_foreign_agent :
    refusal (step (presents .ppuMaster .atomic (.busRead 0x4016) rs)) = some (.notOwner .ppuMaster) := by decide
/-- R54. -/
theorem test_step_busy_thread :
    refusal (step (presents .cpuMaster .atomic (.busRead 0x4016) { rs with aprod := some ⟨[1], .claim⟩ })) =
      some (.threadBusy .emulation) := by decide
/-- V124. -/
theorem test_step_illegal :
    refusal (step (presents .host .atomic (.words [0xF0000005]) rs)) = some (.illegalWord .reservedSub) := by decide
/-- V104. -/
theorem test_lock_held_waits :
    (after (advance .frameConsumer 0 { rs with fcons := some .lock, flock := .heldP })).map (fun t => (t.fcons, t.flock)) =
      some (some .lock, .heldP) := by decide
/-- R162 P3. -/
theorem test_publish_releases :
    (after (advance .frameProducer 0 { rs with fprod := some ⟨frame1, .release⟩, flock := .heldP })).map
      (fun t => (t.fprod, t.flock)) = some (none, .free) := by decide
/-- R162 P2. -/
theorem test_copy_takes_a_run :
    (after (advance .frameProducer 1 { rs with fprod := some ⟨frame1, .copy 0⟩, flock := .heldP })).map (·.slot) =
      some [(0, 0x11111111)] := by decide
/-- V52 C1. -/
theorem test_claim_sees_avail :
    (after (advance .audioConsumer 0 { five with acons := some ⟨8, .claim⟩ })).map (fun t => (t.acons, t.raised)) =
      some (some ⟨8, .copy 0 false []⟩, [.audioUnderrun 8 5]) := by decide
/-- V51 P1. -/
theorem test_push_claims_free :
    (after (advance .audioProducer 0 { five with aprod := some ⟨[6, 7, 8, 9], .claim⟩ })).map (·.aprod) =
      some (some ⟨[6, 7, 8, 9], .store 5 3 0⟩) := by decide
/-- U1: the ring is full, the lost sample counted, the contents drawn. -/
theorem test_overwrite_oldest_fills_ring :
    (after (exec (.apush [1, 2])
        { rs8 with cfg := { rs8.cfg with ringCap := 1, overrun := .overwriteOldest } })).map
      (fun t => (t.wr, t.overrunDropped, t.draws, t.raised)) = some (1, 1, 1, [.audioOverrun 1]) := by decide
/-- R216. -/
theorem test_poll_loads_flag :
    (after (step { rs with running := false, inbox := [.poll .emulation] })).map
      (fun t => (t.result, t.emulationEnded, t.presentationEnded)) = some (.flag false, true, false) := by decide
/-- R58. -/
theorem test_poll_keeps_running_loop :
    (after (step { rs with inbox := [.poll .presentation] })).map (fun t => (t.result, t.presentationEnded)) =
      some (.flag true, false) := by decide
/-- R58: never inside a blocking call. -/
theorem test_poll_not_inside_fpub :
    refusal (step { rs with
      fprod := some ⟨frame1, .lock⟩, flock := .heldC, fcons := some (.copy [] 0), inbox := [.poll .emulation] }) =
        some (.threadBusy .emulation) := by decide
/-- R216. -/
theorem test_poll_after_end :
    refusal (step { rs with running := false, emulationEnded := true, inbox := [.poll .emulation] }) =
      some (.threadEnded .emulation) := by decide
/-- R216. -/
theorem test_ended_loop_presents_nothing :
    refusal (step (presents .frameConsumer .atomic (.words [0xC0000000]) { rs with running := false, presentationEnded := true })) =
      some (.threadEnded .presentation) := by decide
/-- N28. -/
theorem test_audio_goes_on_after_stop :
    (after (step (presents .audioConsumer .atomic (.words [0xF0000002])
      { rs with running := false, emulationEnded := true, presentationEnded := true }))).map (·.result) = some (.count 0) := by decide
/-- R230, R245. -/
theorem test_reset_is_first :
    (after (step (presents .host .atomic (.words [0xF0000000]) { rs with strobe := true }))).map
      (fun t => (t.strobe, t.started)) = some (false, true) := by decide
/-- R245, U12. -/
theorem test_reset_not_after_start :
    refusal (step (presents .host .atomic (.words [0xF0000000]) { rs with started := true })) =
      some .resetAfterStart := by decide
/-- D28: the alternative, 14 bits. -/
theorem test_narrow_ppu_address :
    (after (exec (.ppur 0x6123) { rs with cfg := { Params.default with ppuAddrW := 14 } })).map (·.calls) =
      some [.cartPpuReads 0x2123] := by decide
/-- R26. -/
theorem test_idle : (after (step rs)) = some rs := by decide
/-- F2 of 95_test_vectors.md. -/
theorem test_pixel_index : pixelIndex 3 2 = 515 := by decide
/-- V50. -/
theorem test_sample_value : sampleValue 0xFFEC = -20 := by decide

/-! Hypotheses that can be met: for each obligation that has some, a state and operands at a boundary of each clause. -/

theorem test_meets_decode_of_encode : (Instr.gundn 255 239).wf Params.default = true ∧
    (Instr.irqa 7).wf Params.default = true ∧ (Instr.apull 0xFFFFFF).wf Params.default = true ∧
    (Instr.apush []).wf Params.default = true ∧ Instr.cpurPort1.wf Params.default = true := by decide

theorem test_meets_encode_of_decode : ok (decode Params.default (.words [0xE0FFFFFF])) = some (.apull 0xFFFFFF) ∧
    ok (decode Params.default (.busRead 0xFFFF)) = some (.cpurCart8000 0x7FFF) ∧
    Params.default.map = AddrMap.default := by decide

theorem test_meets_illegal_words : illegalWord Params.default 0x5000F000 [] ∧ ¬illegalWord Params.default 0x5000EF00 [] ∧
    refusal (step (presents .inputCollector .atomic (.words [0x5000F000]) rs)) = some (.illegalWord .outsideFrame) := by
  refine ⟨.inr (.inr (.inr (.inr (.inl (by decide))))), ?_, by decide⟩
  simp only [illegalWord, unusedFieldSet, payloadWrong]
  decide

theorem test_meets_admitted_atomic : ok (decode rs.cfg (.words [0xB0000001])) = some (.fpub 1) ∧
    owns .frameProducer (.fpub 1) = true ∧ threadBusy rs (threadOf .frameProducer) = false ∧
    threadEnded rs (threadOf .frameProducer) = false ∧
    (presents .frameProducer .atomic (.words [0xB0000001]) rs).inbox =
      [.present .frameProducer .atomic (.words [0xB0000001])] := by decide

theorem test_meets_admitted_stepwise : channelUse (.snap 0) = .none ∧ channelUse .reset = .reset ∧
    owns .inputCollector (.snap 0) = true ∧ owns .host .reset = true ∧ threadBusy rs .input = false ∧
    threadBusy rs .host = false ∧ threadEnded rs .input = false ∧ threadEnded rs .host = false ∧ rs.started = false := by
  decide

theorem test_meets_begins : ok (decode rs.cfg (.words [0xB0000001])) = some (.fpub 1) ∧ frameOf withFrame 1 = some frame1 ∧
    withFrame.fprod = none ∧ ok (decode rs.cfg (.words [0xC0000000])) = some .facq ∧ rs.fcons = none ∧
    ok (decode rs.cfg (.words [0xD0000000])) = some (.apush []) ∧ rs.aprod = none ∧
    ok (decode rs.cfg (.words [0xE0000000])) = some (.apull 0) ∧ rs.acons = none ∧
    (match admitted withFrame .frameProducer (.words [0xB0000001]) with
      | .ok i => decide (i = .fpub 1)
      | .error _ => false) = true := by decide

theorem test_meets_other_entries : { rs with inbox := [.advance .audioProducer 0] }.inbox = [.advance .audioProducer 0] ∧
    { rs with inbox := [.poll .presentation] }.inbox = [.poll .presentation] ∧ rs.emulationEnded = false ∧
    rs.presentationEnded = false ∧ rs.fprod = none ∧ rs.aprod = none ∧ rs.fcons = none ∧
    threadEnded { rs with presentationEnded := true } (threadOfLoop .presentation) = true ∧
    threadBusy { rs with fcons := some .lock } (threadOfLoop .presentation) = true ∧ rs.inbox = [] := by decide

theorem test_meets_foreign_and_busy : ok (decode rs.cfg (.busRead 0x4016)) = some .cpurPort1 ∧
    owns .ppuMaster .cpurPort1 = false ∧ owns .cpuMaster .cpurPort1 = true ∧
    threadBusy { rs with aprod := some ⟨[1], .claim⟩ } (threadOf .cpuMaster) = true ∧
    threadEnded { rs with aprod := some ⟨[1], .claim⟩ } (threadOf .cpuMaster) = false ∧
    threadEnded { rs with emulationEnded := true } (threadOf .cpuMaster) = true ∧
    ok (decode rs.cfg (.words [0xF0000000])) = some .reset ∧ { rs with started := true }.started = true := by decide

theorem test_meets_regions : AddrMap.default.wf = true ∧ region AddrMap.default 0x0000 = .low ∧
    region AddrMap.default 0x1FFF = .low ∧ region AddrMap.default 0x2000 = .ppu ∧ region AddrMap.default 0x3FFF = .ppu ∧
    region AddrMap.default 0x4000 = .io ∧ region AddrMap.default 0x4017 = .io ∧
    region AddrMap.default 0x4018 = .unmapped ∧ region AddrMap.default 0x401F = .unmapped ∧
    region AddrMap.default 0x4020 = .cart ∧ region AddrMap.default 0xFFFF = .cart := by decide

theorem test_meets_forwarding : rs.cfg.map.wf = true ∧ rs.cfg.map.low.has 0x1FFF = true ∧ rs.cfg.lowMode = .forward ∧
    rs.cfg.map.ppu.has 0x3FFF = true ∧ rs.cfg.map.io.has 0x4015 = true ∧ (0x4015 : Addr) ≠ rs.cfg.map.port1Addr ∧
    (0x4015 : Addr) ≠ rs.cfg.map.port2Addr ∧ rs.cfg.map.cart.has 0x4020 = true ∧ rs.cfg.map.io.has 0x4017 = true ∧
    (0x4017 : Addr) ≠ rs.cfg.map.strobeAddr := by decide

theorem test_meets_unmapped : rs.cfg.map.low.has 0x4018 = false ∧ rs.cfg.map.ppu.has 0x4018 = false ∧
    rs.cfg.map.io.has 0x4018 = false ∧ rs.cfg.map.cart.has 0x401F = false ∧ lowUnmapped.cfg.map.wf = true ∧
    lowUnmapped.cfg.map.low.has 0x0000 = true ∧ lowUnmapped.cfg.lowMode = .unmapped := by decide

theorem test_meets_ppu_widths : rs.cfg.ppuAddrW = 16 ∧
    (0x2123 : Addr).toNat = (0x6123 : Addr).toNat % 2 ^ { Params.default with ppuAddrW := 14 }.ppuAddrW := by decide

theorem test_meets_mirrors : rs.cfg.map.ppu.has 0x2000 = true ∧ rs.cfg.map.ppu.has 0x3FF8 = true ∧
    (0x2000 : Addr).toNat % 8 = (0x3FF8 : Addr).toNat % 8 := by decide

theorem test_meets_rows : rs.cfg.map = AddrMap.default ∧ lowUnmapped.cfg.map = AddrMap.default ∧
    rs.cfg.lowMode = .forward ∧ lowUnmapped.cfg.lowMode = .unmapped := by decide

/-- The clauses of SideEffectsOfAccesses: away from the ports, each port in Shifting, port 2 with a gun, Latching. -/
theorem test_meets_side_effects :
    (after (exec (.cpur 0x4018) rs)).isSome = true ∧ (0x4018 : Addr) ≠ rs.cfg.map.port1Addr ∧
    (0x4018 : Addr) ≠ rs.cfg.map.port2Addr ∧ (after (exec (.cpur 0x4016) rs)).isSome = true ∧ rs.strobe = false ∧
    (after (exec (.cpur 0x4017) gunOn)).isSome = true ∧ gunOn.connected = true ∧ rs.connected = false ∧
    (after (exec (.cpur 0x4017) { rs with strobe := true })).isSome = true ∧
    (after (exec (.cpuw 0x4015 0) rs)).isSome = true ∧ (0x4015 : Addr) ≠ rs.cfg.map.strobeAddr := by decide

theorem test_meets_strobe_write : strobeWrite rs (.cpuw 0x4016 0x01) ∧ strobeWrite rs (.cpuwStrobe 0x00) :=
  ⟨.inl ⟨_, rfl⟩, .inr ⟨_, rfl⟩⟩

theorem test_meets_port_reads : port1Read rs (.cpur 0x4016) ∧ port1Read rs .cpurPort1 ∧ port2Read rs (.cpur 0x4017) ∧
    port2Read rs .cpurPort2 ∧ rs.strobe = false ∧ { rs with strobe := true }.strobe = true ∧ rs.connected = false ∧
    gunOn.connected = true ∧ gunOn.cfg.map.wf = true := ⟨.inl rfl, .inr rfl, .inl rfl, .inr rfl, by decide⟩

theorem test_meets_latch_readout : rs.cfg.map.wf = true ∧ (∀ v ∈ ([0x01, 0xFF] : List Byte), v.getLsbD 0 = true) ∧
    { rs with snapshot := 0x0001 }.snapshot = 0x0001 := by decide

theorem test_meets_open_bus : (after (exec (.cpur 0x4017) gunOn)).isSome = true ∧
    (after (exec (.cpur 0x4018) rs)).map (·.result) = some (.byte 0x00) ∧ ¬port1Read rs (.cpur 0x4018) ∧
    ¬port2Read rs (.cpur 0x4018) := by
  refine ⟨by decide, by decide, ?_, ?_⟩ <;> rintro (h | h) <;> revert h <;> decide

theorem test_meets_reloaded : sameButReloaded { rs with strobe := true } { rs with strobe := true, shift1 := 0xFF } ∧
    sameButReloaded gunOn { gunOn with shift2 := 0xFF } := ⟨⟨rfl, by decide, by decide⟩, ⟨rfl, by decide, by decide⟩⟩

theorem test_meets_gun_bounds : (239 : Byte).toNat ≤ 239 ∧ 240 ≤ (240 : Byte).toNat ∧ 240 ≤ (255 : Byte).toNat := by decide

theorem test_meets_connected_gun : gunOn.connected = true ∧ (after (exec (.cpur 0x4017) gunOn)).isSome = true ∧
    (after (exec (.cpuw 0x4016 0x01) gunOn)).isSome = true := by decide

theorem test_meets_ranges : gunOk rs ∧ irqOk { rs with irq := 0xFF } ∧ (after (step rs)).isSome = true := by
  simp only [gunOk, irqOk]
  decide

theorem test_meets_irq_sources : (7 : Byte).toNat < rs.cfg.irqW ∧ rs.cfg.irqW ≤ (8 : Byte).toNat ∧
    Params.default.wf = true ∧ (∀ o ∈ ([(true, 0), (true, 7), (false, 0)] : List (Bool × Byte)), o.2.toNat < rs.cfg.irqW) ∧
    (true, (0 : Byte)).2 ≠ (false, (7 : Byte)).2 :=
  ⟨by decide, by decide, by decide, by simp [rs, State.reset, Params.default], by decide⟩

theorem test_meets_whole_frames : frameOf withFrame 1 = some frame1 ∧ withFrame.fprod = none ∧ withFrame.flock = .free ∧
    withFrame.fcons = none := by decide

theorem memories_ok_rs : memoriesOk rs := ⟨rfl, rfl, by simp [rs, State.reset], trivial, trivial⟩

/-- Both ends waiting, and both releasing. -/
theorem test_meets_held_lock : { withFrame with flock := .heldC }.flock ≠ .free ∧ { rs with flock := .heldP }.flock ≠ .free ∧
    { rs with fprod := some ⟨frame1, .lock⟩ }.fprod = some ⟨frame1, .lock⟩ ∧
    { rs with fcons := some .lock }.fcons = some .lock ∧
    { rs with fprod := some ⟨frame1, .release⟩ }.fprod = some ⟨frame1, .release⟩ ∧
    { rs with fcons := some (.release frame1) }.fcons = some (.release frame1) := by decide

/-- A fair run: the FACQ that holds the lock releases it, then the two loops take turns to load the flag. -/
def turns (k : Nat) : Event :=
  if k = 0 then .advance .frameConsumer 1 else if k % 2 = 1 then .poll .emulation else .poll .presentation

def held : State := { rs with started := true, flock := .heldC, fcons := some (.release []) }

theorem safe_held : safe held :=
  ⟨by decide, by unfold gunOk; decide, by unfold irqOk; decide, ⟨rfl, rfl, by simp [held, rs, State.reset], trivial, rfl⟩,
    ⟨⟨by decide, by decide⟩, trivial, fun _ _ => rfl⟩, ⟨by decide, by decide, by decide, trivial, trivial⟩,
    by unfold emulationSingle; decide, by unfold startedOk; decide, by unfold endedOk; decide⟩

def turnStates (k : Nat) : State :=
  if k = 0 then held
  else { rs with started := true, result := if k = 1 then .frame [] else .flag true }

theorem turns_step (k : Nat) : step { turnStates k with inbox := [turns k] } = .next (turnStates (k + 1)) := by
  by_cases h : k = 0
  · subst h; rfl
  · by_cases h1 : k = 1
    · subst h1; rfl
    · by_cases h2 : k % 2 = 1 <;> simp [turnStates, turns, h, h1, h2] <;> rfl

theorem turns_fair : weaklyFair turns turnStates := by
  intro th k h
  cases th with
  | emulation => exact ⟨2 * k + 1, by omega, by simp [turns, stepOf, threadOfLoop]⟩
  | presentation => exact ⟨2 * k + 2, by omega, by simp [turns, stepOf, threadOfLoop]⟩
  | audio =>
    rcases h (k + 1) (by omega) with ⟨side, hs, he⟩ | ⟨_, _, loop, hl⟩
    · cases side <;> simp_all [threadOfSide, sideEnabled, turnStates, rs, State.reset]
    · cases loop <;> cases hl
  | input =>
    rcases h k le_rfl with ⟨side, hs, _⟩ | ⟨_, _, loop, hl⟩
    · cases side <;> cases hs
    · cases loop <;> cases hl
  | host =>
    rcases h k le_rfl with ⟨side, hs, _⟩ | ⟨_, _, loop, hl⟩
    · cases side <;> cases hs
    · cases loop <;> cases hl

theorem test_meets_fair_run : safe (turnStates 0) ∧ runsUnder turns turnStates ∧ weaklyFair turns turnStates :=
  ⟨safe_held, turns_step, turns_fair⟩

/-- The end of a run: the second loop observes the flag clear (60_exceptions.md R217). -/
def ending : State := { rs with running := false, started := true, emulationEnded := true, inbox := [.poll .presentation] }

theorem test_run_ends : (∃ t, step ending = .next t ∧ runEnded t) ∧ ¬runEnded ending :=
  ⟨⟨_, rfl, by intro loop; cases loop <;> rfl, by decide⟩, fun h => by cases h.1 .presentation⟩

theorem test_meets_misuse : frameOf rs 0 = none ∧ (frameOf withFrame 1).isSome = true ∧
    { withFrame with fprod := some ⟨frame1, .lock⟩ }.fprod.isSome = true ∧
    { rs with fcons := some .lock }.fcons.isSome = true ∧ { rs with aprod := some ⟨[], .claim⟩ }.aprod.isSome = true ∧
    { rs with acons := some ⟨0, .claim⟩ }.acons.isSome = true := by decide

theorem test_meets_frame_protocol :
    memoriesOk { rs with fprod := some ⟨frame1, .lock⟩ } ∧ memoriesOk { rs with fcons := some .lock } ∧
    rs.flock = .free ∧ Config.frameWords ≤ [0, 61439, 1].sum ∧ [0, 61439, 1].dropLast.sum < Config.frameWords :=
  ⟨⟨rfl, rfl, by simp [rs, State.reset], (by decide : Memory.wf Config.frameWords frame1 = true), trivial⟩,
    ⟨rfl, rfl, by simp [rs, State.reset], trivial, trivial⟩, by decide⟩

theorem test_meets_no_tearing :
    untorn { rs with fprod := some ⟨frame1, .copy 1⟩, flock := .heldP, slot := [(0, 0x11111111)] } ∧
    untorn { rs with fcons := some (.copy [] 1), flock := .heldC } ∧
    (after (step { rs with
      fprod := some ⟨frame1, .copy 1⟩
      flock := .heldP
      inbox := [.advance .frameProducer 1] })).isSome = true := by
  refine ⟨⟨⟨by decide, by decide⟩, ?_, trivial⟩, ⟨⟨by decide, by decide⟩, trivial, fun i _ => rfl⟩, by decide⟩
  intro i hi
  obtain rfl : i = 0 := by omega
  decide

theorem test_meets_last_published : untorn rs ∧ slotHolds rs [] ∧
    (after (step (presents .frameConsumer .atomic (.words [0xC0000000]) rs))).map (·.result) = some (.frame []) :=
  ⟨⟨⟨by decide, by decide⟩, trivial, trivial⟩, fun _ _ _ => rfl, by decide⟩

/-- A push that fits exactly, one that overflows by one, and one that overflows under the other policy. -/
theorem test_meets_audio_push : memoriesOk rs ∧ rs.aprod = none ∧ rs.cfg.overrun = .dropNewest ∧
    8 = min 8 (rs8.cfg.ringCap - availNow rs8) ∧ 8 = min 9 (rs8.cfg.ringCap - availNow rs8) ∧
    { rs8 with cfg := { rs8.cfg with overrun := .overwriteOldest } }.cfg.overrun = .overwriteOldest ∧
    rs8.cfg.ringCap - availNow rs8 < 9 := by
  exact ⟨memories_ok_rs, by decide⟩

theorem test_meets_audio_pull : five.acons = none ∧ 5 ≤ availNow five ∧ availNow five < 6 := by decide

theorem test_meets_cursors : rs8.cfg.wf = true ∧ cursorsOk { rs8 with wr := 2, rd := 0xFFFFFFFA } ∧
    cursorsOk { five with aprod := some ⟨[6, 7, 8, 9], .store 5 3 1⟩, acons := some ⟨5, .copy 0 true [10]⟩ } ∧
    (after (step { five with inbox := [.advance .audioProducer 0] })).isSome = true := by
  refine ⟨by decide, ⟨by decide, by decide, by decide, trivial, trivial⟩,
    ⟨by decide, by decide, by decide, ⟨by decide, by decide, by decide, by decide⟩, ⟨by decide, by decide⟩⟩, by decide⟩

theorem test_meets_safe_step : safe held ∧
    (after (step { held with inbox := [.advance .frameConsumer 0] })).map (·.flock) = some .free := ⟨safe_held, by decide⟩

theorem test_meets_queue : ringOk { five with acons := some ⟨5, .free 0 true [10, 11, 12, 13, 14]⟩ } ∧
    (after (step { five with
      acons := some ⟨5, .free 0 true [10, 11, 12, 13, 14]⟩
      inbox := [.advance .audioConsumer 0] })).map (fun t => (t.result, ringContents t)) =
        some (.samples [10, 11, 12, 13, 14], []) :=
  ⟨⟨by decide, by decide, by decide, ⟨by decide, by decide, by decide, trivial, ⟨by decide, by decide⟩⟩, trivial,
    ⟨by decide, by unfold pulledSoFar; decide⟩⟩, by decide⟩

theorem test_meets_audio_protocols : [2, 0, 1] ≠ [] ∧ 3 ≤ [2, 0, 1].sum ∧ [2, 0, 1].dropLast.sum < 3 ∧
    ([0] : List Nat).dropLast = [] ∧ 3 = min 4 (five.cfg.ringCap - availNow five) ∧ five.cfg.overrun = .dropNewest ∧
    { five with aprod := some ⟨[6, 7, 8, 9], .claim⟩ }.aprod = some ⟨[6, 7, 8, 9], .claim⟩ ∧
    { five with acons := some ⟨3, .claim⟩ }.acons = some ⟨3, .claim⟩ := by decide

theorem test_meets_independence : (after (exec (.apush [1]) rs)).isSome = true ∧
    (after (advance .audioConsumer 1 { five with acons := some ⟨3, .claim⟩ })).isSome = true ∧
    (after (exec (.fpub 1) withFrame)).isSome = true ∧
    (after (advance .frameConsumer 1 { rs with fcons := some .lock })).isSome = true := by decide

theorem test_meets_reset_observables : Params.default.wf = true ∧ rs = { State.reset with cfg := Params.default } ∧
    1 ≤ 1 := by decide

theorem test_meets_flag : Instr.stop ≠ .reset ∧ (after (exec .stop rs)).isSome = true ∧
    (after (exec .irqv { rs with running := false })).isSome = true := by decide

theorem test_meets_writers : (after (exec .guntg rs)).map (·.connected) = some true ∧ rs.connected ≠ true ∧
    Instr.guntg ≠ .reset ∧ (after (advance .audioProducer 0 five)).isSome = true ∧
    (after (exec (.irqa 7) rs)).map (·.irq) = some 0x80 := by decide

theorem test_meets_memories : rs.cfg.wf = true ∧ memoriesOk rs ∧ (after (step rs)).isSome = true :=
  ⟨by decide, memories_ok_rs, by decide⟩

theorem test_meets_conditions : (after (exec (.apull 6) five)).map (·.raised) = some (conditionsOf (.apull 6) five) ∧
    conditionsOf (.apull 5) five = [] ∧ conditionsOf (.cpur 0x4018) rs = [.unmappedRead 0x4018] := by decide

theorem test_meets_completion : (Instr.irqa 7).wf rs.cfg = true ∧ canRun (.irqa 7) rs ∧
    canRun (.fpub 1) withFrame ∧ canRun .facq rs ∧ canRun (.apush [1]) rs ∧ canRun (.apull 1) rs :=
  ⟨by decide, trivial, ⟨by decide, by decide, by decide⟩, ⟨by exact rfl, by exact rfl⟩, by exact rfl, by exact rfl⟩


end Sys2Proof.Tests
end

section
/-! SUPPORT. Sequences of IRQA and IRQK: one mask update an operation, and the mask a sequence leaves (43_irq_line.md R145,
R146, R148). -/

namespace Sys2Proof.Machine

variable {s : State} {o : Bool × Byte}

/-- IRQA (true) or IRQK (false) of a source. -/
def irqOp (o : Bool × Byte) : Instr := if o.1 then .irqa o.2 else .irqk o.2

/-- The mask IRQA (true) or IRQK (false) of a source leaves. -/
def irqUpdate (m : IrqMask) (o : Bool × Byte) : IrqMask := if o.1 then m ||| irqBit o.2 else m &&& ~~~irqBit o.2

/-- On a legal source IRQA and IRQK update the mask and nothing else (R145, R146). -/
theorem exec_irqOp (h : o.2.toNat < s.cfg.irqW) :
    exec (irqOp o) s = .next { s with irq := irqUpdate s.irq o, result := .none } := by
  obtain ⟨set, src⟩ := o
  cases set
  · exact if_pos h
  · exact if_pos h

/-- An update decides the bit of its source and keeps every other. -/
theorem irqUpdate_getLsbD (m : IrqMask) (o : Bool × Byte) {j : Nat} (hj : j < 256) :
    (irqUpdate m o).getLsbD j = if j = o.2.toNat then o.1 else m.getLsbD j := by
  obtain ⟨set, src⟩ := o
  cases set
  · have hclear : (irqUpdate m (false, src)).getLsbD j = (m.getLsbD j && !decide (j = src.toNat)) := by
      rw [← irqBit_getLsbD]; simp [irqUpdate, hj]
    rw [hclear]
    by_cases h : j = src.toNat <;> simp [h]
  · have hset : (irqUpdate m (true, src)).getLsbD j = (m.getLsbD j || decide (j = src.toNat)) := by
      rw [← irqBit_getLsbD]; simp [irqUpdate]
    rw [hset]
    by_cases h : j = src.toNat <;> simp [h]

/-- Updates of different sources commute (R148). -/
theorem irqUpdate_comm (m : IrqMask) {a b : Bool × Byte} (h : a.2 ≠ b.2) :
    irqUpdate (irqUpdate m a) b = irqUpdate (irqUpdate m b) a := by
  have hne : a.2.toNat ≠ b.2.toNat := mt BitVec.eq_of_toNat_eq h
  apply BitVec.eq_of_getLsbD_eq
  intro j hj
  simp only [irqUpdate_getLsbD _ _ hj]
  split
  · rw [if_neg (by omega)]
  · rfl

/-- After a sequence of updates a bit is as the last one of its source left it (R148). -/
theorem foldl_irqUpdate_getLsbD (m : IrqMask) (ops : List (Bool × Byte)) (src : Byte) :
    (ops.foldl irqUpdate m).getLsbD src.toNat =
      ((ops.reverse.find? (fun o => decide (o.2 = src))).map Prod.fst).getD (m.getLsbD src.toNat) := by
  have hsrc : src.toNat < 256 := src.isLt
  induction ops generalizing m with
  | nil => rfl
  | cons o ops ih =>
    rw [List.foldl_cons, ih, irqUpdate_getLsbD _ _ hsrc, List.reverse_cons, List.find?_append]
    cases ops.reverse.find? (fun o => decide (o.2 = src)) with
    | some last => rfl
    | none =>
      by_cases ho : o.2 = src
      · simp [ho]
      · have hne : src.toNat ≠ o.2.toNat := fun h => ho (BitVec.eq_of_toNat_eq h.symm)
        simp [ho, hne]

/-- A sequence of IRQA and IRQK on legal sources completes, and updates the mask one operation after another. -/
theorem runOps_irqOps (ops : List (Bool × Byte)) (h : ∀ o ∈ ops, o.2.toNat < s.cfg.irqW) :
    ∃ t rs, runOps (ops.map irqOp) s = some (t, rs) ∧ t.irq = ops.foldl irqUpdate s.irq := by
  induction ops generalizing s with
  | nil => exact ⟨s, [], rfl, rfl⟩
  | cons o ops ih =>
    obtain ⟨ho, hops⟩ := List.forall_mem_cons.1 h
    obtain ⟨t, rs, hrun, hirq⟩ := ih (s := { s with irq := irqUpdate s.irq o, result := .none }) hops
    exact ⟨t, .none :: rs, by rw [List.map_cons, runOps_cons _ (exec_irqOp ho), hrun]; rfl, hirq⟩

/-- Two of them, one after the other. -/
theorem runOps_irqOp_pair {a b : Bool × Byte} (ha : a.2.toNat < s.cfg.irqW) (hb : b.2.toNat < s.cfg.irqW) :
    runOps [irqOp a, irqOp b] s =
      some ({ s with irq := irqUpdate (irqUpdate s.irq a) b, result := .none }, [.none, .none]) := by
  have hb' := exec_irqOp (s := { s with irq := irqUpdate s.irq a, result := .none }) hb
  rw [runOps_cons _ (exec_irqOp ha), runOps_cons _ hb']
  rfl

end Sys2Proof.Machine

namespace Sys2Proof

/-- Legal parameters number the named sources legally (00_scope.md R9). -/
theorem Params.irqSources_of_wf {p : Params} (h : p.wf = true) : p.irqSources.wf p.irqW = true := by
  simp only [Params.wf, Bool.and_eq_true] at h
  obtain ⟨⟨⟨⟨_, hsources⟩, _⟩, _⟩, _⟩ := h
  exact hsources

/-- Sources legally numbered have bits of the mask, no two the same (92_eei_decisions.md D15). -/
theorem IrqSources.lt_and_nodup_of_wf {q : IrqSources} {irqW : Nat} (h : q.wf irqW = true) :
    (∀ src ∈ [q.frameCounter, q.mapperScanline, q.dmc], src.toNat < irqW) ∧
      [q.frameCounter, q.mapperScanline, q.dmc].Nodup := by
  simp only [IrqSources.wf, Bool.and_eq_true, decide_eq_true_eq] at h
  obtain ⟨⟨⟨⟨⟨hf, hm⟩, hd⟩, hfm⟩, hfd⟩, hmd⟩ := h
  simp [hf, hm, hd, hfm, hfd, hmd]

end Sys2Proof

open Sys2Proof Sys2Proof.Machine

/-- Settles O38: the mask a sequence leaves is the fold of its updates, whose bits the last operation of a source decides. -/
theorem irqLastOperationWins : Obligations.IrqLastOperationWins := by
  refine ⟨fun s ops hlegal => ?_, fun s a b hne ha hb => ?_, fun p hp => ?_⟩
  · obtain ⟨t, rs, hrun, hirq⟩ := runOps_irqOps ops hlegal
    refine ⟨t, rs, hrun, fun src => ?_⟩
    rw [hirq, foldl_irqUpdate_getLsbD]
    cases ops.reverse.find? (fun o => decide (o.2 = src)) <;> rfl
  · have hcomm : runOps [irqOp a, irqOp b] s = runOps [irqOp b, irqOp a] s := by
      rw [runOps_irqOp_pair ha hb, runOps_irqOp_pair hb ha, irqUpdate_comm _ hne]
    exact hcomm
  · exact IrqSources.lt_and_nodup_of_wf (Params.irqSources_of_wf hp)
end

section
/-! SUPPORT. What a step does with each kind of entry, as equations: admission decided, an operation run or begun, and a
loop's load of the running flag (00_scope.md R5, R7). -/

namespace Sys2Proof.Machine

variable {s : State} {agent : Agent} {grain : Grain} {what : Presented} {rest : List Event} {i : Instr}

/-- Admission of a presentation that decodes, one check after the other. -/
theorem admitted_of_decode (hd : decode s.cfg what = .ok i) : admitted s agent what =
    if owns agent i = false then .error (.notOwner agent)
    else if threadEnded s (threadOf agent) then .error (.threadEnded (threadOf agent))
    else if threadBusy s (threadOf agent) then .error (.threadBusy (threadOf agent))
    else if s.started = true ∧ channelUse i = .reset then .error .resetAfterStart
    else .ok i := by
  simp only [admitted, hd]

/-- What admission asks is enough: the converse of `admitted_ok`. -/
theorem admitted_of_conditions (hd : decode s.cfg what = .ok i) (ho : owns agent i = true)
    (he : threadEnded s (threadOf agent) = false) (hb : threadBusy s (threadOf agent) = false)
    (hr : i = .reset → s.started = false) : admitted s agent what = .ok i := by
  have hreset : ¬(s.started = true ∧ channelUse i = .reset) := fun ⟨hs, hu⟩ =>
    Bool.eq_false_iff.1 (hr (channelUse_reset hu)) hs
  simp [admitted_of_decode hd, ho, he, hb, hreset]

/-- A presentation that is not admitted is refused. -/
theorem step_of_not_admitted (hin : s.inbox = .present agent grain what :: rest) {r : Refusal}
    (h : admitted s agent what = .error r) : step s = .refused r := by
  simp only [step, hin, h]

/-- An admitted operation that is presented whole, or that has no step-level protocol, is run. -/
theorem step_of_admitted (hin : s.inbox = .present agent grain what :: rest) (h : admitted s agent what = .ok i)
    (hg : grain = .atomic ∨ begins i (takeEntry rest s) = none) : step s = exec i (takeEntry rest s) := by
  cases grain with
  | atomic => simp only [step, hin, h]
  | stepwise =>
    have hn : begins i (takeEntry rest s) = none := hg.resolve_left nofun
    simp only [step, hin, h, hn]

/-- An admitted operation that is presented step by step and has a step-level protocol is begun. -/
theorem step_of_begins (hin : s.inbox = .present agent .stepwise what :: rest) (h : admitted s agent what = .ok i)
    {out : Host.Outcome State Fault Refusal} (hb : begins i (takeEntry rest s) = some out) : step s = out := by
  simp only [step, hin, h, hb]

/-- Operations without a step-level protocol are not begun (00_scope.md R5). -/
theorem begins_eq_none (h : channelUse i = .none ∨ channelUse i = .reset) : begins i s = none := by
  rcases h with h | h <;> simp only [begins, h]

theorem begins_fpub {f : BitVec 24} {F : Frame} (hF : frameOf s f = some F) (hn : s.fprod = none) :
    begins (.fpub f) s = some (.next { s with fprod := some { frame := F, stage := .lock }, result := .none }) := by
  simp [begins, channelUse, beginFpub, hF, hn]

theorem begins_facq (hn : s.fcons = none) :
    begins .facq s = some (.next { s with fcons := some .lock, result := .none }) := by
  simp [begins, channelUse, beginFacq, hn]

theorem begins_apush {xs : List Sample} (hn : s.aprod = none) :
    begins (.apush xs) s = some (.next { s with aprod := some { samples := xs, stage := .claim }, result := .none }) := by
  simp [begins, channelUse, beginApush, hn]

theorem begins_apull {n : Nat} (hn : s.acons = none) :
    begins (.apull n) s = some (.next { s with acons := some { count := n, stage := .claim }, result := .none }) := by
  simp [begins, channelUse, beginApull, hn]

/-- A step whose entry is a loop's load of the running flag. -/
theorem step_of_poll {loop : Loop} (hin : s.inbox = .poll loop :: rest) : step s = poll loop (takeEntry rest s) := by
  simp only [step, hin]

/-- A load by a thread that has not ended and runs no operation is answered (20_memory.md R58). -/
theorem poll_of_idle {loop : Loop} (he : threadEnded s (threadOfLoop loop) = false)
    (hb : threadBusy s (threadOfLoop loop) = false) : poll loop s = .next (pollRunning loop s) := by
  simp [poll, he, hb]

theorem poll_of_ended {loop : Loop} (he : threadEnded s (threadOfLoop loop) = true) :
    poll loop s = .refused (.threadEnded (threadOfLoop loop)) := by
  simp [poll, he]

theorem poll_of_busy {loop : Loop} (he : threadEnded s (threadOfLoop loop) = false)
    (hb : threadBusy s (threadOfLoop loop) = true) : poll loop s = .refused (.threadBusy (threadOfLoop loop)) := by
  simp [poll, he, hb]

/-- The load of the emulation loop returns the flag, and a loop that observes it clear ends (60_exceptions.md R216). -/
theorem poll_emulation (he : s.emulationEnded = false) (hp : s.fprod = none) (ha : s.aprod = none) :
    poll .emulation s = .next { s with emulationEnded := !s.running, result := .flag s.running } := by
  rw [poll_of_idle (loop := .emulation) he (by simp [threadOfLoop, threadBusy, hp, ha])]
  cases hr : s.running <;> simp [pollRunning, giveResult, endLoop, hr, he]

/-- That of the presentation loop. -/
theorem poll_presentation (he : s.presentationEnded = false) (hc : s.fcons = none) :
    poll .presentation s = .next { s with presentationEnded := !s.running, result := .flag s.running } := by
  rw [poll_of_idle (loop := .presentation) he (by simp [threadOfLoop, threadBusy, hc])]
  cases hr : s.running <;> simp [pollRunning, giveResult, endLoop, hr, he]

end Sys2Proof.Machine

open Sys2Proof Sys2Proof.Machine

/-- Settles O6: the conditions are those of admission, and an operation without a step-level protocol is not begun. -/
theorem stepRunsAdmittedOperation : Obligations.StepRunsAdmittedOperation := by
  intro s agent grain what rest i hin hd ho he hb hr hg
  exact step_of_admitted hin (admitted_of_conditions hd ho he hb hr) (hg.imp_right begins_eq_none)

/-- Settles O7: each of the four operations is begun by its own `begins` equation. -/
theorem stepBeginsProtocol : Obligations.StepBeginsProtocol := by
  intro s agent what rest i hin hi
  refine ⟨fun f F hf hF hn => ?_, fun hf hn => ?_, fun xs hf hn => ?_, fun n hf hn => ?_⟩ <;> subst hf
  · exact step_of_begins hin hi (begins_fpub hF hn)
  · exact step_of_begins hin hi (begins_facq hn)
  · exact step_of_begins hin hi (begins_apush hn)
  · exact step_of_begins hin hi (begins_apull hn)

/-- Settles O8: one equation of `step` for each kind of entry, and one of `poll` for each state of the loop's thread. -/
theorem stepTakesOtherEntries : Obligations.StepTakesOtherEntries := by
  intro s
  refine ⟨fun side n rest hin => ?_, fun rest hin he hp ha => ?_, fun rest hin he hc => ?_, fun loop rest hin => ?_,
    fun hin => ?_⟩
  · simp only [step, hin]
  · exact (step_of_poll hin).trans (poll_emulation he hp ha)
  · exact (step_of_poll hin).trans (poll_presentation he hc)
  · rw [step_of_poll hin]
    exact ⟨fun he => poll_of_ended (by simpa using he),
      fun he hb => poll_of_busy (by simpa using he) (by simpa using hb)⟩
  · simp only [step, hin]

/-- Settles O9: each clause is the check of admission that fails first; the Host's thread never ends and is never busy. -/
theorem foreignAndBusyAgentsRefused : Obligations.ForeignAndBusyAgentsRefused := by
  intro s agent grain what rest i hin hd
  have hadm := admitted_of_decode (agent := agent) hd
  refine ⟨fun ho => ?_, fun ho he => ?_, fun ho he hb => ?_, fun hhost hreset hs => ?_⟩ <;>
    refine step_of_not_admitted hin (hadm.trans ?_)
  · simp [ho]
  · simp [ho, he]
  · simp [ho, he, hb]
  · subst hhost hreset
    have ho : owns .host .reset = true := Laws.Owner.reset
    simp [ho, threadOf, threadEnded, threadBusy, channelUse, hs]
end

section
/-! SUPPORT. Which agents own an operation (60_exceptions.md R211). -/

namespace Sys2Proof.Machine

variable {agent : Agent}

/-- AVAIL alone has an owner besides the one `owner` names. -/
theorem owns_iff {i : Instr} : owns agent i = true ↔ agent = owner i ∨ (i = .avail ∧ agent = .audioProducer) := by
  simp [owns]

theorem owns_iff_owner {i : Instr} (h : i ≠ .avail) : owns agent i = true ↔ agent = owner i := by
  simp [owns_iff, h]

/-- The rows of the address decode are the CPU's (30_encoding.md R74). -/
theorem owns_rowRead_iff (r : Row) : owns agent (rowRead r) = true ↔ agent = .cpuMaster := by
  cases r <;> exact owns_iff_owner nofun

theorem owns_rowWrite_iff (r : Row) (v : Byte) : owns agent (rowWrite r v) = true ↔ agent = .cpuMaster := by
  cases r <;> exact owns_iff_owner nofun

end Sys2Proof.Machine

open Sys2Proof Sys2Proof.Machine

/-- Settles O10: every operation but AVAIL has the one owner `owner` names, the rows by cases; AVAIL has two. -/
theorem operationsBelongToTheirAgents : Obligations.OperationsBelongToTheirAgents := by
  intro agent
  have havail : owns agent .avail = true ↔ agent = .audioConsumer ∨ agent = .audioProducer := by
    simp [owns_iff, owner]
  exact ⟨fun _ => owns_iff_owner nofun, fun _ _ => owns_iff_owner nofun, owns_rowRead_iff, owns_rowWrite_iff,
    fun _ => owns_iff_owner nofun, fun _ _ => owns_iff_owner nofun, fun _ => owns_iff_owner nofun,
    fun _ _ => owns_iff_owner nofun, fun _ => owns_iff_owner nofun, fun _ _ => owns_iff_owner nofun,
    owns_iff_owner nofun, owns_iff_owner nofun, fun _ => owns_iff_owner nofun, fun _ => owns_iff_owner nofun,
    owns_iff_owner nofun, fun _ => owns_iff_owner nofun, owns_iff_owner nofun, fun _ => owns_iff_owner nofun,
    fun _ => owns_iff_owner nofun, havail, owns_iff_owner nofun, owns_iff_owner nofun⟩
end

section
/-! SUPPORT. The PPU side of the Bus: the address CORE carries (20_memory.md R45, D28) and the call made with it
(40_bus.md R104, R105). -/

namespace Sys2Proof.Machine

variable {s : State} {a c : Addr}

/-- The address carried is the one whose value is the operand's modulo `2 ^ PPU_ADDR_W`. -/
theorem ppuAddress_eq {p : Params} (h : c.toNat = a.toNat % 2 ^ p.ppuAddrW) : ppuAddress p a = c := by
  rw [ppuAddress, ← h, BitVec.ofNat_toNat, BitVec.setWidth_eq]

theorem ppur_readsThrough (h : ppuAddress s.cfg a = c) : readsThrough (.ppur a) (.cartPpuReads c) s := by
  subst h; rfl

theorem ppuw_callsOnce (v : Byte) (h : ppuAddress s.cfg a = c) : callsOnce (.ppuw a v) (.cartPpuWrites c v) s := by
  subst h; rfl

end Sys2Proof.Machine

open Sys2Proof Sys2Proof.Machine

/-- Settles O16: at width 16 the address carried is the operand itself, at any width its low bits; the other two forward
their operands as they are. -/
theorem ppuSideAndPassThroughForwarded : Obligations.PpuSideAndPassThroughForwarded := by
  intro s a v b k
  refine ⟨fun hw => ?_, fun c hc => ?_, rfl, rfl⟩
  · have hall : ppuAddress s.cfg a = a := ppuAddress_eq (by rw [hw, Nat.mod_eq_of_lt a.isLt])
    exact ⟨ppur_readsThrough hall, ppuw_callsOnce v hall⟩
  · exact ⟨ppur_readsThrough (ppuAddress_eq hc), ppuw_callsOnce v (ppuAddress_eq hc)⟩
end

section
/-! SUPPORT. What a protocol step does, said once: one case a stage of each end (44_frame_channel.md R162, 45_audio_ring.md
R178, R179); and which fields the channel operations of one step write. -/

namespace Sys2Proof.Machine

variable {s t : State} {side : Side} {n : Nat}

/-- What a protocol step did to the state: nothing where the end's next step is not enabled, otherwise one case a stage;
where a stage copies, one case for a copy that goes on and one for a copy that ends. -/
inductive ProtocolEffect (s : State) (n : Nat) : Side → State → Prop where
  | idle (side : Side) (h : sideEnabled s side = false) : ProtocolEffect s n side (noResult s)
  | publishLock (F : Frame) (hp : s.fprod = some ⟨F, .lock⟩) (hl : s.flock = .free) :
      ProtocolEffect s n .frameProducer { s with flock := .heldP, fprod := some ⟨F, .copy 0⟩, result := .none }
  | publishCopy (F : Frame) (next : Nat) (hp : s.fprod = some ⟨F, .copy next⟩) (hn : next + n < Config.frameWords) :
      ProtocolEffect s n .frameProducer { s with
        slot := Memory.copy F s.slot next (next + n), fprod := some ⟨F, .copy (next + n)⟩, result := .none }
  | publishCopyEnd (F : Frame) (next : Nat) (hp : s.fprod = some ⟨F, .copy next⟩) (hn : Config.frameWords ≤ next + n) :
      ProtocolEffect s n .frameProducer { s with
        slot := Memory.copy F s.slot next Config.frameWords, fprod := some ⟨F, .release⟩, result := .none }
  | publishRelease (F : Frame) (hp : s.fprod = some ⟨F, .release⟩) :
      ProtocolEffect s n .frameProducer { s with flock := .free, fprod := none, result := .none }
  | acquireLock (hc : s.fcons = some .lock) (hl : s.flock = .free) :
      ProtocolEffect s n .frameConsumer { s with flock := .heldC, fcons := some (.copy [] 0), result := .none }
  | acquireCopy (out : Frame) (next : Nat) (hc : s.fcons = some (.copy out next)) (hn : next + n < Config.frameWords) :
      ProtocolEffect s n .frameConsumer { s with
        fcons := some (.copy (Memory.copy s.slot out next (next + n)) (next + n)), result := .none }
  | acquireCopyEnd (out : Frame) (next : Nat) (hc : s.fcons = some (.copy out next)) (hn : Config.frameWords ≤ next + n) :
      ProtocolEffect s n .frameConsumer { s with
        fcons := some (.release (Memory.copy s.slot out next Config.frameWords)), result := .none }
  | acquireRelease (out : Frame) (hc : s.fcons = some (.release out)) :
      ProtocolEffect s n .frameConsumer { s with flock := .free, fcons := none, result := .frame out }
  | pushClaim (xs : List Sample) (k : Nat) (hp : s.aprod = some ⟨xs, .claim⟩) (hk : k = acceptOf s.cfg s.wr s.rd xs.length) :
      ProtocolEffect s n .audioProducer
        (overwriteOldest k xs.length { s with aprod := some ⟨xs, .store s.wr k 0⟩, result := .none })
  | pushStore (xs : List Sample) (w k next : Nat) (hp : s.aprod = some ⟨xs, .store w k next⟩) (hn : next + n < k) :
      ProtocolEffect s n .audioProducer { s with
        buf := storeRun s.cfg.ringCap s.buf (w + next) ((xs.take (next + n)).drop next)
        aprod := some ⟨xs, .store w k (next + n)⟩
        result := .none }
  | pushStoreEnd (xs : List Sample) (w k next : Nat) (hp : s.aprod = some ⟨xs, .store w k next⟩) (hn : k ≤ next + n) :
      ProtocolEffect s n .audioProducer { s with
        buf := storeRun s.cfg.ringCap s.buf (w + next) ((xs.take k).drop next)
        aprod := some ⟨xs, .publish w k⟩
        result := .none }
  | pushPublish (xs : List Sample) (w k : Nat) (hp : s.aprod = some ⟨xs, .publish w k⟩) :
      ProtocolEffect s n .audioProducer (publishSamples w k xs.length { s with aprod := none })
  | pullClaim (count : Nat) (hc : s.acons = some ⟨count, .claim⟩) (hn : count ≤ availNow s) :
      ProtocolEffect s n .audioConsumer { s with acons := some ⟨count, .copy s.rd true []⟩, result := .none }
  | pullClaimShort (count : Nat) (hc : s.acons = some ⟨count, .claim⟩) (hn : availNow s < count) :
      ProtocolEffect s n .audioConsumer (raise (.audioUnderrun count (availNow s))
        { s with acons := some ⟨count, .copy s.rd false []⟩, result := .none })
  | pullCopy (count r : Nat) (ok : Bool) (out out' : List Sample) (stage : PullStage)
      (hc : s.acons = some ⟨count, .copy r ok out⟩)
      (hout : out' = out ++ if ok then loadRun s.cfg.ringCap s.buf (r + out.length) (min n (count - out.length))
        else silence (min n (count - out.length)))
      (hstage : stage = if count - out.length ≤ n then .free r ok out' else .copy r ok out') :
      ProtocolEffect s n .audioConsumer { s with acons := some ⟨count, stage⟩, result := .none }
  | pullFree (count r : Nat) (ok : Bool) (out : List Sample) (hc : s.acons = some ⟨count, .free r ok out⟩) :
      ProtocolEffect s n .audioConsumer { s with
        rd := if ok then advanceCursor s.cfg r count else s.rd, acons := none, result := .samples out }

theorem advancePublish_effect : ProtocolEffect s n .frameProducer (advancePublish n s) := by
  unfold advancePublish
  rcases hp : s.fprod with _ | ⟨F, _ | next | _⟩
  · exact .idle _ (by simp [sideEnabled, hp])
  · by_cases hl : s.flock = .free
    · simpa [hl] using ProtocolEffect.publishLock F hp hl
    · simpa [hl] using ProtocolEffect.idle .frameProducer (by simp [sideEnabled, hp, hl])
  · rcases Nat.lt_or_ge (next + n) Config.frameWords with hn | hn
    · simpa [hn, Nat.min_eq_left hn.le, Nat.not_le.2 hn] using ProtocolEffect.publishCopy F next hp hn
    · simpa [hn, Nat.min_eq_right hn] using ProtocolEffect.publishCopyEnd F next hp hn
  · exact .publishRelease F hp

theorem advanceAcquire_effect : ProtocolEffect s n .frameConsumer (advanceAcquire n s) := by
  unfold advanceAcquire
  rcases hc : s.fcons with _ | _ | ⟨out, next⟩ | out
  · exact .idle _ (by simp [sideEnabled, hc])
  · by_cases hl : s.flock = .free
    · simpa [hl] using ProtocolEffect.acquireLock hc hl
    · simpa [hl] using ProtocolEffect.idle .frameConsumer (by simp [sideEnabled, hc, hl])
  · rcases Nat.lt_or_ge (next + n) Config.frameWords with hn | hn
    · simpa [hn, Nat.min_eq_left hn.le, Nat.not_le.2 hn] using ProtocolEffect.acquireCopy out next hc hn
    · simpa [hn, Nat.min_eq_right hn] using ProtocolEffect.acquireCopyEnd out next hc hn
  · exact .acquireRelease out hc

theorem advancePush_effect : ProtocolEffect s n .audioProducer (advancePush n s) := by
  unfold advancePush
  rcases hp : s.aprod with _ | ⟨xs, _ | ⟨w, k, next⟩ | ⟨w, k⟩⟩
  · exact .idle _ (by simp [sideEnabled, hp])
  · exact .pushClaim xs _ hp rfl
  · rcases Nat.lt_or_ge (next + n) k with hn | hn
    · simpa [hn, Nat.min_eq_left hn.le, Nat.not_le.2 hn] using ProtocolEffect.pushStore xs w k next hp hn
    · simpa [hn, Nat.min_eq_right hn] using ProtocolEffect.pushStoreEnd xs w k next hp hn
  · exact .pushPublish xs w k hp

theorem advancePull_effect : ProtocolEffect s n .audioConsumer (advancePull n s) := by
  unfold advancePull
  rcases hc : s.acons with _ | ⟨count, _ | ⟨r, ok, out⟩ | ⟨r, ok, out⟩⟩
  · exact .idle _ (by simp [sideEnabled, hc])
  · rcases Nat.lt_or_ge (availNow s) count with hn | hn
    · have hshort : ¬count ≤ availOf s.cfg s.wr s.rd := Nat.not_le.2 hn
      simpa [hshort, availNow] using ProtocolEffect.pullClaimShort count hc hn
    · have hfits : count ≤ availOf s.cfg s.wr s.rd := hn
      simpa [hfits] using ProtocolEffect.pullClaim count hc hn
  · exact .pullCopy count r ok out _ _ hc rfl rfl
  · exact .pullFree count r ok out hc

/-- What a protocol step that answers a next state did. -/
theorem advance_effect (h : advance side n s = .next t) : ProtocolEffect s n side t := by
  cases side with
  | frameProducer => cases h; exact advancePublish_effect
  | frameConsumer => cases h; exact advanceAcquire_effect
  | audioProducer => cases h; exact advancePush_effect
  | audioConsumer => cases h; exact advancePull_effect

/-! Which fields an operation of one step on a channel writes. -/

theorem publish_changes (F : Frame) (s : State) :
    ∃ m p, publish F s = { s with slot := m, fprod := p, result := .none } := by
  unfold publish
  split <;> exact ⟨_, _, rfl⟩

theorem acquire_changes (s : State) : ∃ c q, acquire s = { s with fcons := c, result := q } := by
  unfold acquire
  split <;> exact ⟨_, _, rfl⟩

/-- The contents stay canonical, whether or not they are overwritten. -/
theorem publishSamples_changes (w k n : Nat) (s : State) : ∃ b d r, publishSamples w k n s = { s with
      buf := b
      wr := advanceCursor s.cfg w k
      overrunDropped := s.overrunDropped + (n - k)
      raised := r
      result := .none
      draws := d } ∧ (Memory.wf s.cfg.ringCap s.buf = true → Memory.wf s.cfg.ringCap b = true) := by
  unfold publishSamples
  obtain ⟨b, d, heq, hb⟩ := overwriteOldest_changes k n { s with
    wr := advanceCursor s.cfg w k, overrunDropped := s.overrunDropped + (n - k), result := .none }
  rw [heq]
  split
  · exact ⟨b, d, _, rfl, hb⟩
  · exact ⟨b, d, _, rfl, hb⟩

theorem pushSamples_changes (xs : List Sample) (s : State) : ∃ b d r, pushSamples xs s = { s with
      buf := b
      wr := advanceCursor s.cfg s.wr (acceptOf s.cfg s.wr s.rd xs.length)
      overrunDropped := s.overrunDropped + (xs.length - acceptOf s.cfg s.wr s.rd xs.length)
      raised := r
      result := .none
      draws := d } ∧
    (0 < s.cfg.ringCap → Memory.wf s.cfg.ringCap s.buf = true → Memory.wf s.cfg.ringCap b = true) := by
  obtain ⟨b, d, r, heq, hb⟩ := publishSamples_changes s.wr (acceptOf s.cfg s.wr s.rd xs.length) xs.length
    { s with buf := storeRun s.cfg.ringCap s.buf s.wr (xs.take (acceptOf s.cfg s.wr s.rd xs.length)) }
  exact ⟨b, d, r, heq, fun hcap hwf => hb (wf_storeRun hcap hwf)⟩

theorem pullSamples_changes (n : Nat) (s : State) : ∃ r l, pullSamples n s = { s with
    rd := if n ≤ availNow s then advanceCursor s.cfg s.rd n else s.rd, raised := r, result := .samples l } := by
  unfold pullSamples availNow
  split <;> exact ⟨_, _, rfl⟩

end Sys2Proof.Machine
end

section
/-! SUPPORT. The ranges of a legal map and the region of an address (20_memory.md R41). -/

namespace Sys2Proof

/-- Of two ranges apart at most one contains an address. -/
theorem Range.not_has_of_apart {r q : Range} (h : r.apart q = true) {a : Addr} (ha : r.has a = true) :
    q.has a = false := by
  simp only [Range.apart, Range.has, Bool.or_eq_true, Bool.and_eq_true, Bool.and_eq_false_iff, decide_eq_true_eq,
    decide_eq_false_iff_not] at h ha ⊢
  bv_omega

/-- The named regions of a legal map are pairwise apart (00_scope.md R9). -/
theorem AddrMap.apart_of_wf {m : AddrMap} (h : m.wf = true) :
    m.low.apart m.ppu = true ∧ m.low.apart m.io = true ∧ m.low.apart m.cart = true ∧ m.ppu.apart m.io = true ∧
      m.ppu.apart m.cart = true ∧ m.io.apart m.cart = true := by
  simp only [AddrMap.wf, Bool.and_eq_true] at h
  obtain ⟨⟨⟨⟨⟨⟨⟨⟨⟨hlp, hli⟩, hlc⟩, hpi⟩, hpc⟩, hic⟩, _⟩, _⟩, _⟩, _⟩ := h
  exact ⟨hlp, hli, hlc, hpi, hpc, hic⟩

end Sys2Proof

open Sys2Proof Sys2Proof.Machine

/-- Settles O11: `region` tests the named ranges in order, and of ranges apart only one contains the address. -/
theorem everyAddressHasOneRegion : Obligations.EveryAddressHasOneRegion := by
  intro m a hm
  obtain ⟨hlp, hli, hlc, hpi, hpc, hic⟩ := AddrMap.apart_of_wf hm
  unfold region
  split_ifs with hl hp hi hc
  · simp [hl, Range.not_has_of_apart hlp hl, Range.not_has_of_apart hli hl, Range.not_has_of_apart hlc hl]
  · simp [hl, hp, Range.not_has_of_apart hpi hp, Range.not_has_of_apart hpc hp]
  · simp [hl, hp, hi, Range.not_has_of_apart hic hi]
  · simp [hl, hp, hi, hc]
  · simp [hl, hp, hi, hc]
end

section
/-! SUPPORT. Who writes what: the elements of InputLatch and LightGunPeripheral, of IRQLine, of the two channels and the
running flag (10_state.md R10 to R25, R27). -/

namespace Sys2Proof.Machine

variable {s t : State} {i : Instr}

theorem strobeWrite_of_eq {v : Byte} (h : i = .cpuw s.cfg.map.strobeAddr v ∨ i = .cpuwStrobe v) : strobeWrite s i :=
  h.imp (⟨v, ·⟩) (⟨v, ·⟩)

end Sys2Proof.Machine

open Sys2Proof Sys2Proof.Machine

/-- Settles O55: each operation that writes the latch or the gun is a case of `Effect` with the record it leaves. -/
theorem latchAndGunWriters : Obligations.LatchAndGunWriters := by
  intro i s t h hreset
  cases exec_effect h with
  | forward _ _ _ hf => rw [hf]; simp
  | port1 _ hp =>
    cases hs : s.strobe
    · simp [readPort1_shifting s hs, hp, hs]
    · cases hc : s.connected <;> simp [readPort1_latching s hs, hs, hc, hp]
  | port2 _ hp =>
    cases hc : s.connected
    · cases hs : s.strobe
      · simp [readPort2_shifting s hc hs, hp, hc, hs]
      · simp [readPort2_latching s hc hs, hp, hc, hs]
    · simp [readPort2_gun s hc, hc]
  | strobe _ v hw => cases hc : s.connected <;> simp [writeStrobe_eq, strobeWrite_of_eq hw, hc]
  | reset => exact absurd rfl hreset
  | fpub f F => obtain ⟨m, p, hpub⟩ := publish_changes F s; simp [hpub]
  | facq => obtain ⟨c, q, hacq⟩ := acquire_changes s; simp [hacq]
  | apush xs => obtain ⟨b, d, r, hpush, _⟩ := pushSamples_changes xs s; simp [hpush]
  | apull n => obtain ⟨r, l, hpull⟩ := pullSamples_changes n s; simp [hpull]
  | _ => simp

/-- Settles O33: of the writers of `shift2` and of the connection, a connected gun leaves the toggle alone. -/
theorem connectedGunKeepsShift2 : Obligations.ConnectedGunKeepsShift2 := by
  intro i s t hc h hguntg hreset
  obtain ⟨_, _, hshift2, _, _, _, _, _, hconnected⟩ := latchAndGunWriters i s t h hreset
  refine ⟨?_, ?_⟩
  · by_contra hne
    rcases hshift2 hne with ⟨_, hfree⟩ | htoggle
    · exact Bool.eq_false_iff.1 hfree hc
    · exact hguntg htoggle
  · rw [← hc]
    by_contra hne
    exact hguntg (hconnected hne)

/-- Settles O56: an operation is a case of `Effect` and a protocol step one of `ProtocolEffect`; each case names the
fields it writes. -/
theorem irqFrameAndRingWriters : Obligations.IrqFrameAndRingWriters := by
  refine ⟨fun i s t h hreset => ?_, fun side n s t h => ?_⟩
  · cases exec_effect h with
    | forward _ _ _ hf => rw [hf]; simp
    | port1 _ _ => obtain ⟨a1, a2, q, hread⟩ := readPort1_changes s; simp [hread]
    | port2 _ _ => obtain ⟨a1, a2, q, hread⟩ := readPort2_changes s; simp [hread]
    | strobe _ v _ => simp [writeStrobe_eq]
    | reset => exact absurd rfl hreset
    | fpub f F => obtain ⟨m, p, hpub⟩ := publish_changes F s; simp [hpub]
    | facq => obtain ⟨c, q, hacq⟩ := acquire_changes s; simp [hacq]
    | apush xs => obtain ⟨b, d, r, hpush, _⟩ := pushSamples_changes xs s; simp [hpush]
    | apull n => obtain ⟨r, l, hpull⟩ := pullSamples_changes n s; simp [hpull]
    | _ => simp
  · cases advance_effect h with
    | idle _ _ => simp [noResult]
    | pushClaim xs k _ _ =>
      obtain ⟨b, d, hover, _⟩ := overwriteOldest_changes k xs.length
        { s with aprod := some ⟨xs, .store s.wr k 0⟩, result := .none }
      simp [hover]
    | pushPublish xs w k _ =>
      obtain ⟨b, d, r, hpub, _⟩ := publishSamples_changes w k xs.length { s with aprod := none }
      simp [hpub]
    | pullClaimShort _ _ _ => simp [raise]
    | _ => simp
end

section
/-! SUPPORT. Noninterference: what two states that differ in a few fields make of the same operation.  For the operations of
the Bus one lemma for every relation of states; for the others one update of the fields none of them reads. -/

namespace Sys2Proof.Machine

variable {R : State → State → Prop} {s t u : State} {i : Instr}

/-- The two states have the same parameters, and every handler of the Bus (40_bus.md) leads from them to related states. -/
structure BusRespects (R : State → State → Prop) (s t : State) : Prop where
  cfg : t.cfg = s.cfg
  query : ∀ c, R (query c s) (query c t)
  notify : ∀ c, R (notify c s) (notify c t)
  readUnmapped : ∀ a, R (readUnmapped a s) (readUnmapped a t)
  writeUnmapped : ∀ a, R (writeUnmapped a s) (writeUnmapped a t)
  readPort1 : R (readPort1 s) (readPort1 t)
  readPort2 : R (readPort2 s) (readPort2 t)
  writeStrobe : ∀ v, R (writeStrobe v s) (writeStrobe v t)

namespace BusRespects

theorem readLow (h : BusRespects R s t) (a : Addr) : R (readLow a s) (readLow a t) := by
  unfold Machine.readLow
  rw [h.cfg]
  split
  · exact h.query _
  · exact h.readUnmapped a

theorem writeLow (h : BusRespects R s t) (a : Addr) (v : Byte) : R (writeLow a v s) (writeLow a v t) := by
  unfold Machine.writeLow
  rw [h.cfg]
  split
  · exact h.notify _
  · exact h.writeUnmapped a

theorem readPpu (h : BusRespects R s t) (a : Addr) : R (readPpu a s) (readPpu a t) := by
  unfold Machine.readPpu
  rw [h.cfg]
  exact h.query _

theorem writePpu (h : BusRespects R s t) (a : Addr) (v : Byte) : R (writePpu a v s) (writePpu a v t) := by
  unfold Machine.writePpu
  rw [h.cfg]
  exact h.notify _

theorem busRead (h : BusRespects R s t) (a : Addr) : R (busRead a s) (busRead a t) := by
  unfold Machine.busRead
  rw [h.cfg]
  split
  · exact h.readLow a
  · exact h.readPpu a
  · split_ifs
    · exact h.readPort1
    · exact h.readPort2
    · exact h.query _
  · exact h.query _
  · exact h.readUnmapped a

theorem busWrite (h : BusRespects R s t) (a : Addr) (v : Byte) : R (busWrite a v s) (busWrite a v t) := by
  unfold Machine.busWrite
  rw [h.cfg]
  split
  · exact h.writeLow a v
  · exact h.writePpu a v
  · split_ifs
    · exact h.writeStrobe v
    · exact h.notify _
  · exact h.notify _
  · exact h.writeUnmapped a

/-- Every operation of the Bus answers in both states, and the answers are related. -/
theorem exec (h : BusRespects R s t) (hb : busOp i = true) :
    ∃ u v, exec i s = .next u ∧ exec i t = .next v ∧ R u v := by
  cases i with
  | cpur a => exact ⟨_, _, rfl, rfl, h.busRead a⟩
  | cpuw a v => exact ⟨_, _, rfl, rfl, h.busWrite a v⟩
  | ppur a => exact ⟨_, _, rfl, rfl, by rw [h.cfg]; exact h.query _⟩
  | ppuw a v => exact ⟨_, _, rfl, rfl, by rw [h.cfg]; exact h.notify _⟩
  | cpurLow0000 off => exact ⟨_, _, rfl, rfl, h.readLow _⟩
  | cpuwLow0000 off v => exact ⟨_, _, rfl, rfl, h.writeLow _ v⟩
  | cpurPpu2000 off => exact ⟨_, _, rfl, rfl, h.readPpu _⟩
  | cpuwPpu2000 off v => exact ⟨_, _, rfl, rfl, h.writePpu _ v⟩
  | cpurPort1 => exact ⟨_, _, rfl, rfl, h.readPort1⟩
  | cpurPort2 => exact ⟨_, _, rfl, rfl, h.readPort2⟩
  | cpuwStrobe v => exact ⟨_, _, rfl, rfl, h.writeStrobe v⟩
  | cpurUnmapped4018 off => exact ⟨_, _, rfl, rfl, h.readUnmapped _⟩
  | cpuwUnmapped4018 off v => exact ⟨_, _, rfl, rfl, h.writeUnmapped _⟩
  | cpurIo4000 off | cpurIo4010 off | cpurIo4014 off | cpurCart4020 off | cpurCart4040 off | cpurCart4080 off
  | cpurCart4100 off | cpurCart4200 off | cpurCart4400 off | cpurCart4800 off | cpurCart5000 off | cpurCart6000 off
  | cpurCart8000 off => exact ⟨_, _, rfl, rfl, h.query _⟩
  | cpuwIo4000 off v | cpuwIo4010 off v | cpuwIo4014 off v | cpuwPort2 v | cpuwCart4020 off v | cpuwCart4040 off v
  | cpuwCart4080 off v | cpuwCart4100 off v | cpuwCart4200 off v | cpuwCart4400 off v | cpuwCart4800 off v
  | cpuwCart5000 off v | cpuwCart6000 off v | cpuwCart8000 off v | setnmi b | ppucfg k v =>
    exact ⟨_, _, rfl, rfl, h.notify _⟩
  | snap _ | gundn _ _ | gunup | guntg | irqa _ | irqk _ | irqv | fpub _ | facq | apush _ | apull _ | reset | stop | avail =>
    cases hb

end BusRespects

/-- An outcome with its next state changed by `f`. -/
def mapNext (f : State → State) : Host.Outcome State Fault Refusal → Host.Outcome State Fault Refusal
  | .next s => .next (f s)
  | .fault r => .fault r
  | .refused r => .refused r

/-- The state with other shift registers and another running flag. -/
def withUnread (a1 a2 : Byte) (r : Bool) (s : State) : State := { s with shift1 := a1, shift2 := a2, running := r }

section
variable (a1 a2 : Byte) (r : Bool) (s : State)

theorem publish_withUnread (F : Frame) : publish F (withUnread a1 a2 r s) = withUnread a1 a2 r (publish F s) := by
  unfold publish
  rw [apply_ite (withUnread a1 a2 r)]
  rfl

theorem acquire_withUnread : acquire (withUnread a1 a2 r s) = withUnread a1 a2 r (acquire s) := by
  unfold acquire
  rw [apply_ite (withUnread a1 a2 r)]
  rfl

theorem publishSamples_withUnread (w k n : Nat) :
    publishSamples w k n (withUnread a1 a2 r s) = withUnread a1 a2 r (publishSamples w k n s) := by
  by_cases hk : k < n <;> by_cases ho : s.cfg.overrun = .overwriteOldest <;>
    simp [publishSamples, overwriteOldest, withUnread, raise, hk, ho]

theorem pushSamples_withUnread (xs : List Sample) :
    pushSamples xs (withUnread a1 a2 r s) = withUnread a1 a2 r (pushSamples xs s) :=
  publishSamples_withUnread a1 a2 r { s with buf := storeRun s.cfg.ringCap s.buf s.wr (xs.take _) } _ _ _

theorem pullSamples_withUnread (n : Nat) :
    pullSamples n (withUnread a1 a2 r s) = withUnread a1 a2 r (pullSamples n s) := by
  unfold pullSamples
  rw [apply_ite (withUnread a1 a2 r)]
  rfl

end

/-- An operation that is not the Bus's reads neither the shift registers nor the running flag, and but for GUNTG, STOP and
RESET writes none of them (10_state.md R11, R12, R25). -/
theorem exec_withUnread (hb : busOp i = false) (hguntg : i ≠ .guntg) (hstop : i ≠ .stop) (hreset : i ≠ .reset)
    (a1 a2 : Byte) (r : Bool) (s : State) :
    exec i (withUnread a1 a2 r s) = mapNext (withUnread a1 a2 r) (exec i s) := by
  cases i with
  | snap _ | gunup | irqv | avail => rfl
  | guntg => exact absurd rfl hguntg
  | stop => exact absurd rfl hstop
  | reset => exact absurd rfl hreset
  | gundn _ _ | irqa _ | irqk _ => simp only [exec, execGundn, execIrqa, execIrqk, apply_ite (mapNext _)]; rfl
  | fpub f =>
    have hframe : frameOf (withUnread a1 a2 r s) f = frameOf s f := rfl
    simp only [exec, execFpub, hframe]
    cases frameOf s f with
    | none => rfl
    | some F => simp only [publish_withUnread, apply_ite (mapNext _)]; rfl
  | facq => simp only [exec, execFacq, acquire_withUnread, apply_ite (mapNext _)]; rfl
  | apush xs => simp only [exec, execApush, pushSamples_withUnread, apply_ite (mapNext _)]; rfl
  | apull n => simp only [exec, execApull, pullSamples_withUnread, apply_ite (mapNext _)]; rfl
  | _ => cases hb

/-- An operation that is not the Bus's, but for GUNTG and RESET, leaves the strobe, the shift registers and the connection
as they were (10_state.md R10 to R12, R17). -/
theorem exec_latch_fields (h : exec i s = .next u) (hb : busOp i = false) (hguntg : i ≠ .guntg) (hreset : i ≠ .reset) :
    u.strobe = s.strobe ∧ u.shift1 = s.shift1 ∧ u.shift2 = s.shift2 ∧ u.connected = s.connected := by
  have hstrobe : ¬strobeWrite s i := by rintro (⟨v, rfl⟩ | ⟨v, rfl⟩) <;> cases hb
  have hport1 : ¬port1Read s i := by rintro (rfl | rfl) <;> cases hb
  have hport2 : ¬port2Read s i := by rintro (rfl | rfl) <;> cases hb
  obtain ⟨h0, h1, h2, _, _, _, _, _, hc⟩ := latchAndGunWriters i s u h hreset
  simp only [hstrobe, hport1, hport2, hguntg, imp_false, false_and, or_false, not_not, ne_eq] at h0 h1 h2 hc
  exact ⟨h0, h1, h2, hc⟩

/-- No handler of the Bus reads or writes the running flag. -/
theorem busRespects_running (b : Bool) : BusRespects (fun u v => v = { u with running := b }) s { s with running := b } where
  cfg := rfl
  query _ := rfl
  notify _ := rfl
  readUnmapped _ := rfl
  writeUnmapped _ := rfl
  readPort1 := by cases hs : s.strobe <;> simp [readPort1_shifting, readPort1_latching, hs]
  readPort2 := by
    cases hc : s.connected <;> cases hs : s.strobe <;>
      simp [readPort2_gun, readPort2_shifting, readPort2_latching, hc, hs]
  writeStrobe v := by simp [writeStrobe_eq]

/-- Of the fields in `withUnread` the running flag alone. -/
theorem exec_with_running (hb : busOp i = false) (hguntg : i ≠ .guntg) (hstop : i ≠ .stop) (hreset : i ≠ .reset) (b : Bool)
    (h : exec i s = .next u) : exec i { s with running := b } = .next { u with running := b } := by
  obtain ⟨_, h1, h2, _⟩ := exec_latch_fields h hb hguntg hreset
  have hw := exec_withUnread hb hguntg hstop hreset s.shift1 s.shift2 b s
  have hu : withUnread s.shift1 s.shift2 b u = { u with running := b } := by rw [withUnread, ← h1, ← h2]
  rw [h, mapNext, hu] at hw
  exact hw

/-- Every handler of the Bus leaves a register that the two states differ in to be reloaded or displaced: in Latching it
reloads both, in Shifting they are the same but for a displaced `shift2`. -/
theorem busRespects_sameButReloaded (h : sameButReloaded s t) : BusRespects sameButReloaded s t := by
  obtain ⟨ht, h1, h2⟩ := h
  generalize t.shift1 = a1 at ht h1
  generalize t.shift2 = a2 at ht h2
  subst ht
  exact {
    cfg := rfl
    query := fun _ => ⟨rfl, h1, h2⟩
    notify := fun _ => ⟨rfl, h1, h2⟩
    readUnmapped := fun _ => ⟨rfl, h1, h2⟩
    writeUnmapped := fun _ => ⟨rfl, h1, h2⟩
    readPort1 := by
      cases hs : s.strobe
      · simpa [readPort1_shifting, hs, h1 hs, sameButReloaded] using h2 hs
      · simp [readPort1_latching, hs, sameButReloaded]
    readPort2 := by
      cases hc : s.connected
      · cases hs : s.strobe
        · simp [readPort2_shifting, hc, hs, h1 hs, h2 hs hc, sameButReloaded]
        · simp [readPort2_latching, hc, hs, sameButReloaded]
      · exact ⟨by simp [readPort2_gun, hc], by simpa [readPort2_gun, hc] using h1, by simp [readPort2_gun, hc]⟩
    writeStrobe := fun v => by
      refine ⟨by simp [writeStrobe_eq], fun hv => ?_, fun hv hc => ?_⟩ <;> cases hs : s.strobe
      · simp [writeStrobe_eq, hs, h1 hs]
      · simp [writeStrobe_eq, hs]
      · have hfree : s.connected = false := by simpa [writeStrobe_eq] using hc
        simp [writeStrobe_eq, hs, h2 hs hfree]
      · have hfree : s.connected = false := by simpa [writeStrobe_eq] using hc
        simp [writeStrobe_eq, hs, hfree] }

theorem sameOutcome_mapNext {o : Host.Outcome State Fault Refusal} {f : State → State}
    (h : ∀ u, o = .next u → sameButReloaded u (f u)) : sameOutcome o (mapNext f o) := by
  cases o with
  | next u => exact h u rfl
  | refused r => rfl
  | fault r => cases r

end Sys2Proof.Machine

open Sys2Proof Sys2Proof.Machine

/-- Settles O28: the handlers of the Bus keep the relation, GUNTG clears both registers and RESET sets them; no other
operation reads or writes them, or changes what says whether they are reloaded. -/
theorem reloadedRegistersUnobservable : Obligations.ReloadedRegistersUnobservable := by
  intro i s t h
  cases hb : busOp i with
  | true =>
    obtain ⟨u, v, hu, hv, huv⟩ := (busRespects_sameButReloaded h).exec hb
    rw [hu, hv]
    exact huv
  | false =>
    obtain ⟨ht, h1, h2⟩ := h
    by_cases hguntg : i = .guntg
    · subst hguntg; rw [ht]; exact ⟨rfl, fun _ => rfl, fun _ _ => rfl⟩
    by_cases hreset : i = .reset
    · subst hreset; rw [ht]; exact ⟨rfl, fun _ => rfl, fun _ _ => rfl⟩
    by_cases hstop : i = .stop
    · subst hstop; rw [ht]; exact ⟨rfl, h1, h2⟩
    have hw := exec_withUnread hb hguntg hstop hreset t.shift1 t.shift2 s.running s
    rw [withUnread, ← ht] at hw
    rw [hw]
    refine sameOutcome_mapNext fun u hu => ?_
    obtain ⟨h0, hu1, hu2, hc⟩ := exec_latch_fields hu hb hguntg hreset
    obtain ⟨_, _, _, hrun⟩ := (exec_effect hu).run_fields hreset
    refine ⟨by simp [withUnread, hrun hstop], fun hs => ?_, fun hs hf => ?_⟩
    · exact (h1 (h0 ▸ hs)).trans hu1.symm
    · exact (h2 (h0 ▸ hs) (hc ▸ hf)).trans hu2.symm

/-- Settles O54: no handler of the Bus and no other operation reads the flag; GUNTG, which `exec_withUnread` leaves out, does
not read it either. -/
theorem stopClearsRunningWhichGatesNothing : Obligations.StopClearsRunningWhichGatesNothing := by
  refine ⟨fun s => rfl, fun i s t b hreset h => ?_⟩
  by_cases hstop : i = .stop
  · subst hstop; cases h; rfl
  rw [if_neg hstop]
  cases hb : busOp i with
  | true =>
    obtain ⟨u, v, hu, hv, rfl⟩ := (busRespects_running b).exec hb
    cases hu.symm.trans h
    exact hv
  | false =>
    by_cases hguntg : i = .guntg
    · subst hguntg; cases h; rfl
    · exact exec_with_running hb hguntg hstop hreset b h
end

section
/-! SUPPORT. What an operation can do to the two channels, said once; and what every step keeps of the parameters, the gun's
row, the interrupt mask and the memories (00_scope.md R9, 10_state.md R14, R18, R19, R21). -/

namespace Sys2Proof.Machine

variable {s t : State} {i : Instr} {side : Side} {n : Nat}

/-- The two channels, the operations in progress on them, the parameters and the frame table are the same. -/
structure SameChannels (s t : State) : Prop where
  slot : t.slot = s.slot
  flock : t.flock = s.flock
  fprod : t.fprod = s.fprod
  fcons : t.fcons = s.fcons
  buf : t.buf = s.buf
  wr : t.wr = s.wr
  rd : t.rd = s.rd
  aprod : t.aprod = s.aprod
  acons : t.acons = s.acons
  cfg : t.cfg = s.cfg
  frames : t.frames = s.frames

/-- An operation that answers is one of the four of the channels, RESET, or leaves the channels as they were. -/
theorem exec_channel_cases (h : exec i s = .next t) :
    (∃ f F, i = .fpub f ∧ frameOf s f = some F ∧ s.fprod = none ∧ t = publish F s) ∨
      (i = .facq ∧ s.fcons = none ∧ t = acquire s) ∨ (∃ xs, i = .apush xs ∧ s.aprod = none ∧ t = pushSamples xs s) ∨
      (∃ n, i = .apull n ∧ s.acons = none ∧ t = pullSamples n s) ∨ (i = .reset ∧ t = resetState s) ∨
      (channelUse i = .none ∧ SameChannels s t) := by
  cases hu : channelUse i with
  | publish f =>
    obtain rfl := channelUse_publish hu
    obtain ⟨F, hF, hn, ht⟩ := exec_fpub_next h
    exact .inl ⟨f, F, rfl, hF, hn, ht⟩
  | acquire =>
    obtain rfl := channelUse_acquire hu
    exact .inr (.inl ⟨rfl, exec_facq_next h⟩)
  | push xs =>
    obtain rfl := channelUse_push hu
    exact .inr (.inr (.inl ⟨xs, rfl, exec_apush_next h⟩))
  | pull n =>
    obtain rfl := channelUse_pull hu
    exact .inr (.inr (.inr (.inl ⟨n, rfl, exec_apull_next h⟩)))
  | reset =>
    obtain rfl := channelUse_reset hu
    cases h
    exact .inr (.inr (.inr (.inr (.inl ⟨rfl, rfl⟩))))
  | none =>
    have hne : ∀ j, channelUse j ≠ .none → i ≠ j := fun j hj hij => hj (hij ▸ hu)
    have he := exec_effect h
    obtain ⟨hslot, hflock, hfprod, hfcons⟩ := he.frame_fields (fun _ => hne _ nofun) (hne _ nofun) (hne _ nofun)
    obtain ⟨hbuf, hwr, hrd, _, haprod, hacons⟩ :=
      he.ring_fields (fun _ => hne _ nofun) (fun _ => hne _ nofun) (hne _ nofun)
    obtain ⟨hcfg, hframes, _⟩ := he.fixed_fields
    exact .inr (.inr (.inr (.inr (.inr
      ⟨rfl, hslot, hflock, hfprod, hfcons, hbuf, hwr, hrd, haprod, hacons, hcfg, hframes⟩))))

/-- A loop's load of the running flag leaves the channels as they were. -/
theorem pollRunning_sameChannels (loop : Loop) (s : State) : SameChannels s (pollRunning loop s) := by
  constructor <;> simp

/-- No step changes the parameters (10_state.md R27). -/
theorem step_cfg (h : step s = .next t) : t.cfg = s.cfg :=
  step_keeps (P := fun u => u.cfg = s.cfg) (fun _ _ hu => hu) (fun _ _ hu => hu)
    (fun _ _ _ _ hu ha => (advance_fixed_fields ha).1.trans hu) (fun _ _ hu _ _ => (pollRunning_cfg ..).trans hu)
    (fun _ _ _ hu _ _ he => (exec_effect he).fixed_fields.1.trans hu) (fun _ _ _ hu _ _ _ _ => hu)
    (fun _ hu _ _ _ => hu) (fun _ _ hu _ _ _ => hu) (fun _ _ hu _ _ _ => hu) rfl h

/-- The bit of a legal source lies within the mask's width (10_state.md R18). -/
theorem irqBit_toNat_lt {src : Byte} {w : Nat} (h : src.toNat < w) : (irqBit src).toNat < 2 ^ w := by
  have hbit : (irqBit src).toNat = 2 ^ src.toNat := by
    rw [irqBit, ← BitVec.twoPow_eq, BitVec.toNat_twoPow, Nat.mod_eq_of_lt (Nat.pow_lt_pow_right (by omega) src.isLt)]
  rw [hbit]
  exact Nat.pow_lt_pow_right (by omega) h

/-- The gun's row stays in the frame and the mask in its width under every operation: GUNDN and IRQA refuse what would
leave them, and RESET clears both. -/
theorem exec_ranges (hgun : gunOk s) (hirq : irqOk s) (h : exec i s = .next t) : gunOk t ∧ irqOk t := by
  cases i with
  | gundn x y =>
    simp only [exec, execGundn] at h
    split at h <;> cases h
    exact ⟨by assumption, hirq⟩
  | irqa src =>
    simp only [exec, execIrqa] at h
    split at h <;> cases h
    refine ⟨hgun, ?_⟩
    rw [irqOk, BitVec.toNat_or]
    exact Nat.or_lt_two_pow hirq (irqBit_toNat_lt (by assumption))
  | irqk src =>
    simp only [exec, execIrqk] at h
    split at h <;> cases h
    refine ⟨hgun, ?_⟩
    rw [irqOk, BitVec.toNat_and]
    exact Nat.and_le_left.trans_lt hirq
  | reset =>
    cases h
    exact ⟨Nat.zero_le _, Nat.two_pow_pos _⟩
  | _ =>
    obtain ⟨_, hy, hi⟩ := (exec_effect h).gun_irq_fields nofun nofun nofun nofun
    rw [gunOk, irqOk, hy, hi, (exec_effect h).fixed_fields.1]
    exact ⟨hgun, hirq⟩

/-- The frames of the table are canonical, so the one a handle names is. -/
theorem wf_frameOf {f : BitVec 24} {F : Frame} (hm : memoriesOk s) (hF : frameOf s f = some F) :
    Memory.wf Config.frameWords F = true := by
  obtain ⟨_, _, hframes, _⟩ := hm
  obtain ⟨before, after, heq, _⟩ := List.lookup_eq_some_iff.1 hF
  exact hframes (f.toNat, F) (by simp [heq])

theorem memoriesOk_of_sameChannels (hc : SameChannels s t) (hm : memoriesOk s) : memoriesOk t := by
  rw [memoriesOk, hc.slot, hc.cfg, hc.buf, hc.frames, hc.fprod, hc.fcons]
  exact hm

theorem exec_memoriesOk (hwf : s.cfg.wf = true) (hm : memoriesOk s) (h : exec i s = .next t) : memoriesOk t := by
  rcases exec_channel_cases h with ⟨f, F, _, hF, _, rfl⟩ | ⟨_, _, rfl⟩ | ⟨xs, _, _, rfl⟩ | ⟨n, _, _, rfl⟩ | ⟨_, rfl⟩ | ⟨_, hc⟩
  · have hFwf := wf_frameOf hm hF
    obtain ⟨hslot, hbuf, hframes, hfprod, hfcons⟩ := hm
    unfold publish
    split
    · exact ⟨hFwf, hbuf, hframes, hfprod, hfcons⟩
    · exact ⟨hslot, hbuf, hframes, hFwf, hfcons⟩
  · obtain ⟨hslot, hbuf, hframes, hfprod, hfcons⟩ := hm
    unfold acquire
    split
    · exact ⟨hslot, hbuf, hframes, hfprod, hfcons⟩
    · exact ⟨hslot, hbuf, hframes, hfprod, trivial⟩
  · obtain ⟨hslot, hbuf, hframes, hfprod, hfcons⟩ := hm
    obtain ⟨b, d, r, hpush, hb⟩ := pushSamples_changes xs s
    rw [hpush]
    exact ⟨hslot, hb (ring_params hwf).1 hbuf, hframes, hfprod, hfcons⟩
  · obtain ⟨r, l, hpull⟩ := pullSamples_changes n s
    rw [hpull]
    exact hm
  · obtain ⟨_, _, hframes, _, _⟩ := hm
    exact ⟨Memory.wf_nil _, Memory.wf_nil _, hframes, trivial, trivial⟩
  · exact memoriesOk_of_sameChannels hc hm

theorem advance_memoriesOk (hwf : s.cfg.wf = true) (hm : memoriesOk s) (h : advance side n s = .next t) :
    memoriesOk t := by
  have hcap := (ring_params hwf).1
  obtain ⟨hslot, hbuf, hframes, hfprod, hfcons⟩ := id hm
  cases advance_effect h with
  | idle _ _ => exact hm
  | publishLock F hp _ =>
    rw [hp] at hfprod
    exact ⟨hslot, hbuf, hframes, hfprod, hfcons⟩
  | publishCopy F next hp _ | publishCopyEnd F next hp _ =>
    rw [hp] at hfprod
    exact ⟨Memory.wf_copy hfprod hslot, hbuf, hframes, hfprod, hfcons⟩
  | publishRelease F _ => exact ⟨hslot, hbuf, hframes, trivial, hfcons⟩
  | acquireLock _ _ => exact ⟨hslot, hbuf, hframes, hfprod, Memory.wf_nil _⟩
  | acquireCopy out next hc _ | acquireCopyEnd out next hc _ =>
    rw [hc] at hfcons
    exact ⟨hslot, hbuf, hframes, hfprod, Memory.wf_copy hslot hfcons⟩
  | acquireRelease out _ => exact ⟨hslot, hbuf, hframes, hfprod, trivial⟩
  | pushClaim xs k _ _ =>
    obtain ⟨b, d, hover, hb⟩ := overwriteOldest_changes k xs.length
      { s with aprod := some ⟨xs, .store s.wr k 0⟩, result := .none }
    rw [hover]
    exact ⟨hslot, hb hbuf, hframes, hfprod, hfcons⟩
  | pushStore xs w k next _ _ | pushStoreEnd xs w k next _ _ =>
    exact ⟨hslot, wf_storeRun hcap hbuf, hframes, hfprod, hfcons⟩
  | pushPublish xs w k _ =>
    obtain ⟨b, d, r, hpub, hb⟩ := publishSamples_changes w k xs.length { s with aprod := none }
    rw [hpub]
    exact ⟨hslot, hb hbuf, hframes, hfprod, hfcons⟩
  | pullClaim _ _ _ | pullClaimShort _ _ _ | pullCopy _ _ _ _ _ _ _ _ _ | pullFree _ _ _ _ _ => exact hm

end Sys2Proof.Machine

open Sys2Proof Sys2Proof.Machine

/-- Settles O34: no part of a step but an operation touches the gun or the mask. -/
theorem gunAndIrqStayInRange : Obligations.GunAndIrqStayInRange := by
  intro s t hgun hirq h
  refine step_keeps (P := fun u => gunOk u ∧ irqOk u) (fun _ _ hu => hu) (fun _ _ hu => hu)
    (fun side n u v hu ha => ?_) (fun loop u hu _ _ => ?_) (fun i u v hu _ _ he => exec_ranges hu.1 hu.2 he)
    (fun _ _ _ hu _ _ _ _ => hu) (fun _ hu _ _ _ => hu) (fun _ _ hu _ _ _ => hu) (fun _ _ hu _ _ _ => hu)
    ⟨hgun, hirq⟩ h
  · obtain ⟨hcfg, _, _, _, hy, hi⟩ := advance_fixed_fields ha
    rwa [gunOk, irqOk, hcfg, hy, hi]
  · rwa [gunOk, irqOk, pollRunning_gunY, pollRunning_irq, pollRunning_cfg]

/-- Settles O57: every part of a step keeps the canonical form; what a publication begins with is a frame of the table. -/
theorem memoriesStayCanonical : Obligations.MemoriesStayCanonical := by
  intro s t hwf hm h
  refine (step_keeps (P := fun u => u.cfg.wf = true ∧ memoriesOk u) (fun _ _ hu => hu) (fun _ _ hu => hu)
    (fun side n u v hu ha => ?_) (fun loop u hu _ _ => ?_) (fun i u v hu _ _ he => ?_)
    (fun u f F hu _ _ hF _ => ?_) (fun u hu _ _ _ => ?_) (fun _ _ hu _ _ _ => hu) (fun _ _ hu _ _ _ => hu)
    ⟨hwf, hm⟩ h).2
  · exact ⟨(advance_fixed_fields ha).1 ▸ hu.1, advance_memoriesOk hu.1 hu.2 ha⟩
  · exact ⟨(pollRunning_cfg ..).symm ▸ hu.1, memoriesOk_of_sameChannels (pollRunning_sameChannels loop u) hu.2⟩
  · exact ⟨(exec_effect he).fixed_fields.1 ▸ hu.1, exec_memoriesOk hu.1 hu.2 he⟩
  · have hFwf := wf_frameOf hu.2 hF
    obtain ⟨huwf, hslot, hbuf, hframes, _, hfcons⟩ := hu
    exact ⟨huwf, hslot, hbuf, hframes, hFwf, hfcons⟩
  · obtain ⟨huwf, hslot, hbuf, hframes, hfprod, _⟩ := hu
    exact ⟨huwf, hslot, hbuf, hframes, hfprod, trivial⟩
end

section
/-! SUPPORT. The lock discipline of the FrameChannel and the frame it stands for (44_frame_channel.md R160 to R163, 10_state.md
R30), step by step. -/

namespace Sys2Proof.Machine

variable {s t : State} {i : Instr} {side : Side} {n : Nat} {slot : Frame}

/-- A copy that goes on where the destination ceases to agree with the source extends what agrees. -/
theorem Memory.read_copy_of_agree {w : Nat} {src dst : Memory w} {lo hi : Nat}
    (h : ∀ i, i < lo → Memory.read dst i = Memory.read src i) (i : Nat) (hi' : i < hi) :
    Memory.read (Memory.copy src dst lo hi) i = Memory.read src i := by
  rw [Memory.read_copy]
  split
  · rfl
  · exact h i (by omega)

theorem publishCopied_of_not_holds {p : Option Publish} (h : publishHolds p = false) : publishCopied slot p := by
  rcases p with _ | ⟨F, _ | next | _⟩
  · trivial
  · trivial
  · cases h
  · cases h

theorem acquireCopied_of_not_holds {c : Option Acquire} (h : acquireHolds c = false) : acquireCopied slot c := by
  rcases c with _ | _ | ⟨out, next⟩ | out
  · trivial
  · trivial
  · cases h
  · cases h

/-- An end without the lock is outside its critical section. -/
theorem publishHolds_eq_false (h : lockOk s) (hl : s.flock ≠ .heldP) : publishHolds s.fprod = false :=
  Bool.eq_false_iff.2 (mt h.1.2 hl)

theorem acquireHolds_eq_false (h : lockOk s) (hl : s.flock ≠ .heldC) : acquireHolds s.fcons = false :=
  Bool.eq_false_iff.2 (mt h.2.2 hl)

theorem untorn_congr (h : t.slot = s.slot ∧ t.flock = s.flock ∧ t.fprod = s.fprod ∧ t.fcons = s.fcons)
    (hu : untorn s) : untorn t := by
  obtain ⟨hslot, hflock, hfprod, hfcons⟩ := h
  rw [untorn, lockOk, hslot, hflock, hfprod, hfcons]
  exact hu

/-- A publication that has not taken the lock may stand in for none. -/
theorem untorn_publishLock (F : Frame) (hn : s.fprod = none) (hu : untorn s) :
    untorn { s with fprod := some ⟨F, .lock⟩, result := .none } := by
  obtain ⟨hlock, _, hacq⟩ := hu
  rw [lockOk, hn] at hlock
  exact ⟨hlock, trivial, hacq⟩

theorem untorn_acquireLock (hn : s.fcons = none) (hu : untorn s) :
    untorn { s with fcons := some .lock, result := .none } := by
  obtain ⟨hlock, hpub, _⟩ := hu
  rw [lockOk, hn] at hlock
  exact ⟨hlock, hpub, trivial⟩

theorem exec_untorn (hu : untorn s) (h : exec i s = .next t) : untorn t := by
  rcases exec_channel_cases h with ⟨f, F, _, _, hn, rfl⟩ | ⟨_, hn, rfl⟩ | ⟨xs, _, _, rfl⟩ | ⟨n, _, _, rfl⟩ | ⟨_, rfl⟩ | ⟨_, hc⟩
  · unfold publish
    split
    · obtain ⟨hlock, _, _⟩ := hu
      have hacq : acquireHolds s.fcons = false := acquireHolds_eq_false hlock (by simp [*])
      exact ⟨hlock, publishCopied_of_not_holds (by rw [hn]; rfl), acquireCopied_of_not_holds hacq⟩
    · exact untorn_publishLock F hn hu
  · unfold acquire
    split
    · exact hu
    · exact untorn_acquireLock hn hu
  · obtain ⟨b, d, r, hpush, _⟩ := pushSamples_changes xs s
    rw [hpush]
    exact hu
  · obtain ⟨r, l, hpull⟩ := pullSamples_changes n s
    rw [hpull]
    exact hu
  · exact ⟨by simp [lockOk, resetState, State.reset, publishHolds, acquireHolds], trivial, trivial⟩
  · exact untorn_congr ⟨hc.slot, hc.flock, hc.fprod, hc.fcons⟩ hu

theorem advance_untorn (hu : untorn s) (h : advance side n s = .next t) : untorn t := by
  obtain ⟨hlock, hpub, hacq⟩ := id hu
  have ⟨hlp, hlc⟩ := hlock
  cases advance_effect h with
  | idle _ _ => exact hu
  | publishLock F hp hl =>
    have hout := acquireHolds_eq_false hlock (by simp [hl])
    exact ⟨⟨by simp [publishHolds], by simp [hout]⟩, fun _ hi => absurd hi (Nat.not_lt_zero _), hacq⟩
  | publishCopy F next hp _ | publishCopyEnd F next hp _ =>
    have hl : s.flock = .heldP := hlp.2 (by rw [hp]; rfl)
    have hout := acquireHolds_eq_false hlock (by simp [hl])
    rw [hp] at hpub
    exact ⟨⟨by simp [hl, publishHolds], by simp [hl, hout]⟩, Memory.read_copy_of_agree hpub,
      acquireCopied_of_not_holds hout⟩
  | publishRelease F hp =>
    have hl : s.flock = .heldP := hlp.2 (by rw [hp]; rfl)
    have hout := acquireHolds_eq_false hlock (by simp [hl])
    exact ⟨⟨by simp [publishHolds], by simp [hout]⟩, trivial, hacq⟩
  | acquireLock hc hl =>
    have hout := publishHolds_eq_false hlock (by simp [hl])
    exact ⟨⟨by simp [hout], by simp [acquireHolds]⟩, hpub, fun _ hi => absurd hi (Nat.not_lt_zero _)⟩
  | acquireCopy out next hc _ | acquireCopyEnd out next hc _ =>
    have hl : s.flock = .heldC := hlc.2 (by rw [hc]; rfl)
    rw [hc] at hacq
    exact ⟨⟨hlp, by simp [hl, acquireHolds]⟩, hpub, Memory.read_copy_of_agree hacq⟩
  | acquireRelease out hc =>
    have hl : s.flock = .heldC := hlc.2 (by rw [hc]; rfl)
    have hout := publishHolds_eq_false hlock (by simp [hl])
    exact ⟨⟨by simp [hout], by simp [acquireHolds]⟩, hpub, trivial⟩
  | _ => exact untorn_congr (advance_audio_frame_fields (by simp) h) hu

end Sys2Proof.Machine

open Sys2Proof Sys2Proof.Machine

/-- Settles O43: only the steps of the frame protocol move the lock, the slot and the copies; each is a case of
`ProtocolEffect`. -/
theorem noTearingStepByStep : Obligations.NoTearingStepByStep := by
  intro s t hu h
  refine step_keeps (P := untorn) (fun _ _ hu => hu) (fun _ _ hu => hu) (fun side n u v hu ha => advance_untorn hu ha)
    (fun loop u hu _ _ => ?_) (fun i u v hu _ _ he => exec_untorn hu he)
    (fun u f F hu _ _ _ hn => untorn_publishLock F hn hu) (fun u hu _ _ hn => untorn_acquireLock hn hu)
    (fun _ _ hu _ _ _ => hu) (fun _ _ hu _ _ _ => hu) hu h
  have hc := pollRunning_sameChannels loop u
  exact untorn_congr ⟨hc.slot, hc.flock, hc.fprod, hc.fcons⟩ hu
end

section
/-! SUPPORT. The frame last published and the frames returned (44_frame_channel.md R163): what each part of a step makes of
them. -/

namespace Sys2Proof.Machine

variable {s t : State} {i : Instr} {side : Side} {n : Nat} {g F : Frame} {rest : List Event} {agent : Agent} {grain : Grain}
  {what : Presented}

/-- Outside the critical section of the producer an unchanged slot holds the same frame. -/
theorem slotHolds_congr (hslot : t.slot = s.slot) (hp : publishHolds t.fprod = false → publishHolds s.fprod = false)
    (h : slotHolds s g) : slotHolds t g := by
  intro ht
  rw [hslot]
  exact h (hp ht)

/-- During a publication nothing is asked of the slot. -/
theorem slotHolds_of_holds (h : publishHolds s.fprod = true) : slotHolds s g :=
  fun hn => absurd h (Bool.eq_false_iff.1 hn)

/-- The producer's release publishes the frame of its publication. -/
theorem publishedAfter_release (hin : s.inbox = .advance .frameProducer n :: rest) (hp : s.fprod = some ⟨F, .release⟩) :
    publishedAfter s g = F := by
  simp [publishedAfter, advanceReleases, publishing, hin, hp]

/-- No other protocol step publishes. -/
theorem publishedAfter_advance (hin : s.inbox = .advance side n :: rest) (h : advanceReleases s = false) :
    publishedAfter s g = g := by
  simp [publishedAfter, hin, h]

theorem publishedAfter_other_side (hin : s.inbox = .advance side n :: rest) (h : side ≠ .frameProducer) :
    publishedAfter s g = g := by
  refine publishedAfter_advance hin ?_
  cases side with
  | frameProducer => exact absurd rfl h
  | frameConsumer | audioProducer | audioConsumer => simp [advanceReleases, hin]

/-- A release step is always enabled. -/
theorem advanceReleases_eq_false (hin : s.inbox = .advance side n :: rest) (h : sideEnabled s side = false) :
    advanceReleases s = false := by
  cases side with
  | frameProducer =>
    cases hp : s.fprod with
    | none => simp [advanceReleases, hin, hp]
    | some pub =>
      have hlock : pub.stage = .lock ∧ ¬s.flock = .free := by simpa [sideEnabled, hp] using h
      simp [advanceReleases, hin, hp, hlock]
  | frameConsumer | audioProducer | audioConsumer => simp [advanceReleases, hin]

theorem advance_slotHolds (hu : untorn s) (hs : slotHolds s g) (hin : s.inbox = .advance side n :: rest)
    (h : advance side n { s with inbox := rest } = .next t) : slotHolds t (publishedAfter s g) := by
  cases advance_effect h with
  | idle _ hidle =>
    rw [publishedAfter_advance hin (advanceReleases_eq_false hin hidle)]
    exact hs
  | publishLock _ _ _ | publishCopy _ _ _ _ | publishCopyEnd _ _ _ _ => exact slotHolds_of_holds rfl
  | publishRelease F hp =>
    obtain ⟨_, hcopied, _⟩ := hu
    rw [publishedAfter_release hin hp]
    rw [show s.fprod = some ⟨F, .release⟩ from hp] at hcopied
    exact fun _ => hcopied
  | acquireLock _ _ | acquireCopy _ _ _ _ | acquireCopyEnd _ _ _ _ | acquireRelease _ _ =>
    rw [publishedAfter_other_side hin nofun]
    exact hs
  | _ =>
    obtain ⟨hslot, _, hfprod, _⟩ := advance_audio_frame_fields (by simp) h
    rw [publishedAfter_other_side hin nofun]
    exact slotHolds_congr hslot (fun ht => hfprod ▸ ht) hs

/-- RESET leaves the all-zero frame. -/
theorem publishedAfter_reset (hin : s.inbox = .present agent grain what :: rest)
    (hi : admitted s agent what = .ok .reset) : publishedAfter s g = [] := by
  simp [publishedAfter, hin, hi, channelUse]

/-- A whole FPUB that finds the lock free publishes its frame. -/
theorem publishedAfter_fpub {f : BitVec 24} (hin : s.inbox = .present agent grain what :: rest)
    (hi : admitted s agent what = .ok (.fpub f)) (hF : frameOf s f = some F) :
    publishedAfter s g = if grain = .atomic ∧ s.flock = .free then F else g := by
  simp [publishedAfter, hin, hi, channelUse, hF]

/-- No other operation publishes. -/
theorem publishedAfter_other (hin : s.inbox = .present agent grain what :: rest) (hi : admitted s agent what = .ok i)
    (hf : ∀ f, channelUse i ≠ .publish f) (hr : channelUse i ≠ .reset) : publishedAfter s g = g := by
  cases hu : channelUse i with
  | publish f => exact absurd hu (hf f)
  | reset => exact absurd hu hr
  | acquire | push _ | pull _ | none => simp only [publishedAfter, hin, hi, hu]

theorem exec_slotHolds (hs : slotHolds s g) (hin : s.inbox = .present agent grain what :: rest)
    (hi : admitted s agent what = .ok i) (hg : grain = .stepwise → begins i (takeEntry rest s) = none)
    (h : exec i (takeEntry rest s) = .next t) : slotHolds t (publishedAfter s g) := by
  rcases exec_channel_cases h with ⟨f, F, rfl, hF, hn, rfl⟩ | ⟨rfl, _, rfl⟩ | ⟨xs, rfl, _, rfl⟩ | ⟨n, rfl, _, rfl⟩ |
    ⟨rfl, rfl⟩ | ⟨hnone, hc⟩
  · have hatomic : grain = .atomic := by
      cases grain with
      | atomic => rfl
      | stepwise => exact absurd ((begins_fpub hF hn).symm.trans (hg rfl)) nofun
    rw [publishedAfter_fpub hin hi hF, publish]
    by_cases hl : s.flock = .free
    · simp [hatomic, hl, slotHolds]
    · have hheld : (takeEntry rest s).flock ≠ .free := hl
      have hout : publishHolds s.fprod = false := by rw [show s.fprod = none from hn]; rfl
      rw [if_neg hheld, if_neg (fun hfree => hl hfree.2)]
      exact slotHolds_congr (s := s) rfl (fun _ => hout) hs
  · obtain ⟨c, q, hacq⟩ := acquire_changes (takeEntry rest s)
    rw [publishedAfter_other hin hi nofun nofun, hacq]
    exact hs
  · obtain ⟨b, d, r, hpush, _⟩ := pushSamples_changes xs (takeEntry rest s)
    rw [publishedAfter_other hin hi nofun nofun, hpush]
    exact hs
  · obtain ⟨r, l, hpull⟩ := pullSamples_changes n (takeEntry rest s)
    rw [publishedAfter_other hin hi nofun nofun, hpull]
    exact hs
  · rw [publishedAfter_reset hin hi]
    exact fun _ _ _ => rfl
  · rw [publishedAfter_other hin hi (by simp [hnone]) (by simp [hnone])]
    exact slotHolds_congr hc.slot (fun ht => hc.fprod ▸ ht) hs

/-- Beginning an operation publishes nothing. -/
theorem begins_slotHolds (hs : slotHolds s g) (hin : s.inbox = .present agent .stepwise what :: rest)
    (hi : admitted s agent what = .ok i) (h : begins i (takeEntry rest s) = some (.next t)) :
    slotHolds t (publishedAfter s g) := by
  rcases begins_effect h with ⟨f, F, rfl, hF, hn, rfl⟩ | ⟨rfl, _, rfl⟩ | ⟨xs, rfl, _, rfl⟩ | ⟨n, rfl, _, rfl⟩
  · have hout : publishHolds s.fprod = false := by rw [show s.fprod = none from hn]; rfl
    rw [publishedAfter_fpub hin hi hF]
    exact slotHolds_congr (s := s) rfl (fun _ => hout) hs
  all_goals
    rw [publishedAfter_other hin hi nofun nofun]
    exact hs

/-- A protocol step returns a frame only where it ends an acquisition. -/
theorem advance_result_frame (h : advance side n s = .next t) (hF : t.result = .frame F) :
    s.fcons = some (.release F) := by
  cases advance_effect h with
  | acquireRelease out hc => cases hF; exact hc
  | pushClaim xs k _ _ => simp at hF
  | pushPublish xs w k _ =>
    obtain ⟨b, d, r, hpub, _⟩ := publishSamples_changes w k xs.length { s with aprod := none }
    rw [hpub] at hF
    cases hF
  | _ => cases hF

/-- No handler of the Bus returns a frame. -/
theorem busRespects_noFrame (s : State) : BusRespects (fun _ v => ∀ F, v.result ≠ .frame F) s s where
  cfg := rfl
  query _ := nofun
  notify _ := nofun
  readUnmapped _ := nofun
  writeUnmapped _ := nofun
  readPort1 F := by cases hs : s.strobe <;> simp [readPort1_shifting, readPort1_latching, hs]
  readPort2 F := by
    cases hc : s.connected <;> cases hs : s.strobe <;>
      simp [readPort2_gun, readPort2_shifting, readPort2_latching, hc, hs]
  writeStrobe v F := by simp [writeStrobe_eq]

/-- An operation returns a frame only where FACQ finds the lock free. -/
theorem exec_result_frame (h : exec i s = .next t) (hF : t.result = .frame F) : s.flock = .free ∧ F = s.slot := by
  by_cases hb : busOp i = true
  · obtain ⟨_, v, _, hv, hne⟩ := (busRespects_noFrame s).exec hb
    cases hv.symm.trans h
    exact absurd hF (hne F)
  cases i with
  | facq =>
    obtain ⟨_, rfl⟩ := exec_facq_next h
    unfold acquire at hF
    split at hF <;> cases hF
    exact ⟨by assumption, rfl⟩
  | fpub f =>
    obtain ⟨G, _, _, rfl⟩ := exec_fpub_next h
    obtain ⟨m, p, hpub⟩ := publish_changes G s
    rw [hpub] at hF
    cases hF
  | apush xs =>
    obtain ⟨_, rfl⟩ := exec_apush_next h
    obtain ⟨b, d, r, hpush, _⟩ := pushSamples_changes xs s
    rw [hpush] at hF
    cases hF
  | apull n =>
    obtain ⟨_, rfl⟩ := exec_apull_next h
    obtain ⟨r, l, hpull⟩ := pullSamples_changes n s
    rw [hpull] at hF
    cases hF
  | gundn _ _ | irqa _ | irqk _ =>
    simp only [exec, execGundn, execIrqa, execIrqk] at h
    split at h <;> cases h
    cases hF
  | snap _ | gunup | guntg | irqv | reset | stop | avail => cases h; cases hF
  | _ => exact absurd rfl hb

/-- A frame is returned with the lock free, and is the slot, or where an acquisition ends, and is its copy. -/
theorem step_result_frame (h : step s = .next t) (hne : s.inbox ≠ []) (hF : t.result = .frame F) :
    (s.flock = .free ∧ F = s.slot) ∨ s.fcons = some (.release F) := by
  rcases step_cases h with ⟨hin, _⟩ | ⟨side, n, rest, _, ha⟩ | ⟨loop, rest, _, _, _, rfl⟩ |
    ⟨_, _, _, rest, i, _, _, ⟨he, _⟩ | ⟨_, hb⟩⟩
  · exact absurd hin hne
  · exact .inr (advance_result_frame (s := { s with inbox := rest }) ha hF)
  · cases hF
  · exact .inl (exec_result_frame (s := takeEntry rest s) he hF)
  · rcases begins_effect hb with ⟨f, F, rfl, _, _, rfl⟩ | ⟨rfl, _, rfl⟩ | ⟨xs, rfl, _, rfl⟩ | ⟨n, rfl, _, rfl⟩ <;> cases hF

theorem step_slotHolds (hu : untorn s) (hs : slotHolds s g) (h : step s = .next t) : slotHolds t (publishedAfter s g) := by
  rcases step_cases h with ⟨hin, rfl⟩ | ⟨side, n, rest, hin, ha⟩ | ⟨loop, rest, hin, _, _, rfl⟩ |
    ⟨_, _, _, rest, i, hin, hi, ⟨he, hg⟩ | ⟨rfl, hb⟩⟩
  · simpa [publishedAfter, hin] using hs
  · exact advance_slotHolds hu hs hin ha
  · have hc := pollRunning_sameChannels loop (takeEntry rest s)
    simp only [publishedAfter, hin]
    exact slotHolds_congr hc.slot (fun ht => hc.fprod ▸ ht) hs
  · exact exec_slotHolds hs hin hi hg he
  · exact begins_slotHolds hs hin hi hb

end Sys2Proof.Machine

open Sys2Proof Sys2Proof.Machine

/-- Settles O44: a frame is returned with the producer outside its critical section, so it is the slot's, and the slot's
is the frame last published. -/
theorem acquireReturnsLastPublished : Obligations.AcquireReturnsLastPublished := by
  intro s t g hu hs h
  refine ⟨step_slotHolds hu hs h, fun hne F hF i hi => ?_⟩
  obtain ⟨hlock, _, hcopied⟩ := hu
  rcases step_result_frame h hne hF with ⟨hl, rfl⟩ | hc
  · exact hs (publishHolds_eq_false hlock (by simp [hl])) i hi
  · rw [hc] at hcopied
    have hl : s.flock = .heldC := hlock.2.2 (by rw [hc]; rfl)
    exact (hcopied i hi).trans (hs (publishHolds_eq_false hlock (by simp [hl])) i hi)
end

section
/-! SUPPORT. The cursors of the AudioRing within its capacity (45_audio_ring.md R178, R179, 10_state.md R31), and what every
step keeps of the threads and loops (20_memory.md R54, 60_exceptions.md R216). -/

namespace Sys2Proof.Machine

variable {s t : State} {i : Instr} {side : Side} {n k : Nat}

theorem cursorsOk_congr (hcfg : t.cfg = s.cfg) (hwr : t.wr = s.wr) (hrd : t.rd = s.rd) (hp : t.aprod = s.aprod)
    (hc : t.acons = s.acons) (h : cursorsOk s) : cursorsOk t := by
  unfold cursorsOk pushClaim pullClaim availNow at h ⊢
  rw [hcfg, hwr, hrd, hp, hc]
  exact h

theorem cursorsOk_of_sameChannels (hc : SameChannels s t) (h : cursorsOk s) : cursorsOk t :=
  cursorsOk_congr hc.cfg hc.wr hc.rd hc.aprod hc.acons h

/-- A push's claim stands while samples are only pulled. -/
theorem pushClaim_of_le (hcfg : t.cfg = s.cfg) (hwr : t.wr = s.wr) (hle : availNow t ≤ availNow s) {p : Option Push}
    (h : pushClaim s p) : pushClaim t p := by
  rcases p with _ | ⟨xs, _ | ⟨w, k, next⟩ | ⟨w, k⟩⟩
  · trivial
  · trivial
  · obtain ⟨hw, hnext, hk, hfits⟩ := h
    exact ⟨hw.trans hwr.symm, hnext, hk, by rw [hcfg]; omega⟩
  · obtain ⟨hw, hk, hfits⟩ := h
    exact ⟨hw.trans hwr.symm, hk, by rw [hcfg]; omega⟩

/-- A pull's claim stands while samples are only pushed. -/
theorem pullClaim_of_le (hrd : t.rd = s.rd) (hle : availNow s ≤ availNow t) {c : Option Pull} (h : pullClaim s c) :
    pullClaim t c := by
  rcases c with _ | ⟨count, _ | ⟨r, ok, out⟩ | ⟨r, ok, out⟩⟩
  · trivial
  · trivial
  all_goals
    obtain ⟨hr, havail⟩ := h
    exact ⟨hr.trans hrd.symm, fun hok => (havail hok).trans hle⟩

/-- Publishing `k` samples that fit, the push done. -/
theorem cursorsOk_push (hwf : s.cfg.wf = true) (h : cursorsOk s) (hfits : availNow s + k ≤ s.cfg.ringCap)
    (hcfg : t.cfg = s.cfg) (hwr : t.wr = advanceCursor s.cfg s.wr k) (hrd : t.rd = s.rd) (hp : t.aprod = none)
    (hc : t.acons = s.acons) : cursorsOk t := by
  obtain ⟨hw, hr, _, _, hpull⟩ := h
  obtain ⟨_, hlt, _⟩ := ring_params hwf
  have havail : availNow t = availNow s + k := by
    rw [availNow, hcfg, hwr, hrd]
    exact availOf_push hw hr (hfits.trans_lt hlt)
  refine ⟨?_, ?_, ?_, ?_, ?_⟩
  · rw [hwr, hcfg]; exact advanceCursor_lt
  · rwa [hrd, hcfg]
  · rwa [havail, hcfg]
  · rw [hp]; trivial
  · rw [hc]; exact pullClaim_of_le hrd (by omega) hpull

/-- Freeing `n` available samples, the pull done. -/
theorem cursorsOk_pull (h : cursorsOk s) (hn : n ≤ availNow s) (hcfg : t.cfg = s.cfg) (hwr : t.wr = s.wr)
    (hrd : t.rd = advanceCursor s.cfg s.rd n) (hp : t.aprod = s.aprod) (hc : t.acons = none) : cursorsOk t := by
  obtain ⟨hw, hr, hcap, hpush, _⟩ := h
  have havail : availNow t = availNow s - n := by
    rw [availNow, hcfg, hwr, hrd]
    exact availOf_pull hw hr hn
  refine ⟨?_, ?_, ?_, ?_, ?_⟩
  · rwa [hwr, hcfg]
  · rw [hrd, hcfg]; exact advanceCursor_lt
  · rw [havail, hcfg]; omega
  · rw [hp]; exact pushClaim_of_le hcfg hwr (by omega) hpush
  · rw [hc]; trivial

theorem exec_cursorsOk (hwf : s.cfg.wf = true) (h : cursorsOk s) (he : exec i s = .next t) : cursorsOk t := by
  rcases exec_channel_cases he with ⟨f, F, _, _, _, rfl⟩ | ⟨_, _, rfl⟩ | ⟨xs, _, hn, rfl⟩ | ⟨n, _, hn, rfl⟩ | ⟨_, rfl⟩ |
    ⟨_, hc⟩
  · obtain ⟨m, p, hpub⟩ := publish_changes F s
    rw [hpub]
    exact h
  · obtain ⟨c, q, hacq⟩ := acquire_changes s
    rw [hacq]
    exact h
  · obtain ⟨b, d, r, hpush, _⟩ := pushSamples_changes xs s
    obtain ⟨_, _, hcap, _, _⟩ := id h
    rw [hpush]
    exact cursorsOk_push hwf h (acceptOf_fits hcap).2 rfl rfl rfl hn rfl
  · obtain ⟨r, l, hpull⟩ := pullSamples_changes n s
    rw [hpull]
    split
    · exact cursorsOk_pull h ‹_› rfl rfl rfl rfl hn
    · exact h
  · refine ⟨Nat.two_pow_pos _, Nat.two_pow_pos _, ?_, trivial, trivial⟩
    simp [availNow, availOf, resetState, State.reset]
  · exact cursorsOk_of_sameChannels hc h

theorem advance_cursorsOk (hwf : s.cfg.wf = true) (h : cursorsOk s) (ha : advance side n s = .next t) : cursorsOk t := by
  obtain ⟨hw, hr, hcap, hpush, hpull⟩ := id h
  cases advance_effect ha with
  | idle _ _ => exact h
  | pushClaim xs k _ hk =>
    obtain ⟨b, d, hover, _⟩ := overwriteOldest_changes k xs.length
      { s with aprod := some ⟨xs, .store s.wr k 0⟩, result := .none }
    obtain ⟨hle, hfits⟩ := acceptOf_fits (n := xs.length) hcap
    rw [← hk] at hle hfits
    rw [hover]
    exact ⟨hw, hr, hcap, ⟨rfl, Nat.zero_le _, hle, hfits⟩, hpull⟩
  | pushStore xs w k next hp hn =>
    rw [hp] at hpush
    obtain ⟨hwr, _, hk, hfits⟩ := hpush
    exact ⟨hw, hr, hcap, ⟨hwr, hn.le, hk, hfits⟩, hpull⟩
  | pushStoreEnd xs w k next hp _ =>
    rw [hp] at hpush
    obtain ⟨hwr, _, hk, hfits⟩ := hpush
    exact ⟨hw, hr, hcap, ⟨hwr, hk, hfits⟩, hpull⟩
  | pushPublish xs w k hp =>
    rw [hp] at hpush
    obtain ⟨rfl, _, hfits⟩ := hpush
    obtain ⟨b, d, r, hpub, _⟩ := publishSamples_changes s.wr k xs.length { s with aprod := none }
    rw [hpub]
    exact cursorsOk_push hwf h hfits rfl rfl rfl rfl rfl
  | pullClaim count _ hn => exact ⟨hw, hr, hcap, hpush, ⟨rfl, fun _ => hn⟩⟩
  | pullClaimShort count _ _ => exact ⟨hw, hr, hcap, hpush, ⟨rfl, nofun⟩⟩
  | pullCopy count r ok out out' stage hc _ hstage =>
    rw [hc] at hpull
    refine ⟨hw, hr, hcap, hpush, ?_⟩
    rw [hstage]
    split
    · exact hpull
    · exact hpull
  | pullFree count r ok out hc =>
    rw [hc] at hpull
    obtain ⟨rfl, havail⟩ := hpull
    cases ok with
    | true => exact cursorsOk_pull h (havail rfl) rfl rfl rfl rfl rfl
    | false => exact ⟨hw, hr, hcap, hpush, trivial⟩
  | _ =>
    obtain ⟨_, hwr, hrd, _, hp, hc⟩ := advance_frame_ring_fields (by simp) ha
    exact cursorsOk_congr (advance_fixed_fields ha).1 hwr hrd hp hc h

theorem step_cursorsOk (hwf : s.cfg.wf = true) (h : cursorsOk s) (hs : step s = .next t) : cursorsOk t := by
  refine (step_keeps (P := fun u => u.cfg.wf = true ∧ cursorsOk u) (fun _ _ hu => hu) (fun _ _ hu => hu)
    (fun side n u v hu ha => ?_) (fun loop u hu _ _ => ?_) (fun i u v hu _ _ he => ?_)
    (fun _ _ _ hu _ _ _ _ => hu) (fun _ hu _ _ _ => hu) (fun u xs hu _ _ _ => ?_) (fun u n hu _ _ _ => ?_)
    ⟨hwf, h⟩ hs).2
  · exact ⟨(advance_fixed_fields ha).1 ▸ hu.1, advance_cursorsOk hu.1 hu.2 ha⟩
  · exact ⟨(pollRunning_cfg ..).symm ▸ hu.1, cursorsOk_of_sameChannels (pollRunning_sameChannels loop u) hu.2⟩
  · exact ⟨(exec_effect he).fixed_fields.1 ▸ hu.1, exec_cursorsOk hu.1 hu.2 he⟩
  · obtain ⟨huwf, hw, hr, hcap, _, hpull⟩ := hu
    exact ⟨huwf, hw, hr, hcap, trivial, hpull⟩
  · obtain ⟨huwf, hw, hr, hcap, hpush, _⟩ := hu
    exact ⟨huwf, hw, hr, hcap, hpush, trivial⟩

/-- Which operations leave an operation in progress: FPUB and FACQ, where the lock is held. -/
theorem exec_in_progress (hreset : i ≠ .reset) (h : exec i s = .next t) :
    (t.fprod = s.fprod ∨ ∃ f, i = .fpub f) ∧ (t.fcons = s.fcons ∨ i = .facq) ∧ t.aprod = s.aprod ∧ t.acons = s.acons := by
  rcases exec_channel_cases h with ⟨f, F, rfl, _, _, rfl⟩ | ⟨rfl, _, rfl⟩ | ⟨xs, rfl, _, rfl⟩ | ⟨n, rfl, _, rfl⟩ | ⟨rfl, _⟩ |
    ⟨_, hc⟩
  · obtain ⟨m, p, hpub⟩ := publish_changes F s
    rw [hpub]
    exact ⟨.inr ⟨f, rfl⟩, .inl rfl, rfl, rfl⟩
  · obtain ⟨c, q, hacq⟩ := acquire_changes s
    rw [hacq]
    exact ⟨.inl rfl, .inr rfl, rfl, rfl⟩
  · obtain ⟨b, d, r, hpush, _⟩ := pushSamples_changes xs s
    rw [hpush]
    exact ⟨.inl rfl, .inl rfl, rfl, rfl⟩
  · obtain ⟨r, l, hpull⟩ := pullSamples_changes n s
    rw [hpull]
    exact ⟨.inl rfl, .inl rfl, rfl, rfl⟩
  · exact absurd rfl hreset
  · exact ⟨.inl hc.fprod, .inl hc.fcons, hc.aprod, hc.acons⟩

theorem emulationSingle_iff : emulationSingle s ↔ s.fprod = none ∨ s.aprod = none := by
  rw [emulationSingle, not_and_or, Option.not_isSome_iff_eq_none, Option.not_isSome_iff_eq_none]

/-- FPUB and APUSH are presented while the emulation thread runs neither (20_memory.md R54). -/
theorem step_emulationSingle (h : emulationSingle s) (hs : step s = .next t) : emulationSingle t := by
  refine step_keeps (P := emulationSingle) (fun _ _ hu => hu) (fun _ _ hu => hu) (fun side n u v hu ha => ?_)
    (fun loop u hu _ _ => ?_) (fun i u v hu _ hp he => ?_) (fun u f F _ _ hp _ _ => ?_) (fun _ hu _ _ _ => hu)
    (fun u xs _ _ hp _ => ?_) (fun _ _ hu _ _ _ => hu) h hs
  · obtain ⟨hfprod, _, haprod, _⟩ := advance_begins_nothing ha
    exact emulationSingle_iff.2 ((emulationSingle_iff.1 hu).imp hfprod haprod)
  · rwa [emulationSingle, pollRunning_fprod, pollRunning_aprod]
  · by_cases hreset : i = .reset
    · subst hreset; cases he
      exact emulationSingle_iff.2 (.inl rfl)
    obtain ⟨hfprod, _, haprod, _⟩ := exec_in_progress hreset he
    rcases hfprod with hfprod | ⟨f, rfl⟩
    · rwa [emulationSingle, hfprod, haprod]
    · obtain ⟨_, _, hidle⟩ := presentable_fpub hp
      exact emulationSingle_iff.2 (.inr (haprod.trans hidle))
  · obtain ⟨_, _, hidle⟩ := presentable_fpub hp
    exact emulationSingle_iff.2 (.inr hidle)
  · obtain ⟨_, hidle, _⟩ := presentable_apush hp
    exact emulationSingle_iff.2 (.inl hidle)

/-- A run that has begun meets the condition on one that has not. -/
theorem startedOk_of_started (h : s.started = true) : startedOk s :=
  fun hf => absurd h (Bool.eq_false_iff.1 hf)

/-- A run begins with its first operation or load; no protocol step begins an operation (70_reset_and_hazards.md R230). -/
theorem step_startedOk (h : startedOk s) (hs : step s = .next t) : startedOk t := by
  refine step_keeps (P := startedOk) (fun _ _ hu => hu) (fun _ _ _ => startedOk_of_started rfl)
    (fun side n u v hu ha => ?_) (fun loop u _ hst _ => startedOk_of_started (by simpa using hst))
    (fun i u v _ hst _ he => startedOk_of_started ?_) (fun _ _ _ _ hst _ _ _ => startedOk_of_started hst)
    (fun _ _ hst _ _ => startedOk_of_started hst) (fun _ _ _ hst _ _ => startedOk_of_started hst)
    (fun _ _ _ hst _ _ => startedOk_of_started hst) h hs
  · obtain ⟨_, hst, hem, hpr⟩ := advance_run_fields ha
    obtain ⟨hfprod, hfcons, haprod, hacons⟩ := advance_begins_nothing ha
    intro hv
    obtain ⟨h1, h2, h3, h4, h5, h6⟩ := hu (hst ▸ hv)
    exact ⟨hfprod h1, hfcons h2, haprod h3, hacons h4, hem.trans h5, hpr.trans h6⟩
  · by_cases hreset : i = .reset
    · subst hreset; cases he
      exact hst
    · exact ((exec_effect he).run_fields hreset).1.trans hst

/-- STOP clears the flag and RESET alone sets it (10_state.md R25). -/
theorem exec_running_false (hreset : i ≠ .reset) (h : exec i s = .next t) (hr : s.running = false) : t.running = false := by
  by_cases hstop : i = .stop
  · subst hstop; cases h; rfl
  · obtain ⟨_, _, _, hrun⟩ := (exec_effect h).run_fields hreset
    exact (hrun hstop).trans hr

/-- The threads of the two loops present nothing once they have ended, so their operations stay completed. -/
theorem exec_endedOk (hp : presentable i s) (he : endedOk s) (h : exec i s = .next t) : endedOk t := by
  by_cases hreset : i = .reset
  · subst hreset; cases h
    exact ⟨nofun, nofun⟩
  obtain ⟨_, hem, hpr, _⟩ := (exec_effect h).run_fields hreset
  obtain ⟨hfprod, hfcons, haprod, _⟩ := exec_in_progress hreset h
  refine ⟨fun hend => ?_, fun hend => ?_⟩
  · rw [hem] at hend
    obtain ⟨hr, hf, ha⟩ := he.1 hend
    refine ⟨exec_running_false hreset h hr, ?_, haprod.trans ha⟩
    rcases hfprod with hfprod | ⟨f, rfl⟩
    · exact hfprod.trans hf
    · exact absurd hend (Bool.eq_false_iff.1 (presentable_fpub hp).1)
  · rw [hpr] at hend
    obtain ⟨hr, hf⟩ := he.2 hend
    refine ⟨exec_running_false hreset h hr, ?_⟩
    rcases hfcons with hfcons | rfl
    · exact hfcons.trans hf
    · exact absurd hend (Bool.eq_false_iff.1 (presentable_facq hp).1)

/-- A loop ends only where its load, between operations of its thread, finds the flag clear. -/
theorem pollRunning_endedOk {loop : Loop} (hb : threadBusy s (threadOfLoop loop) = false) (he : endedOk s) :
    endedOk (pollRunning loop s) := by
  unfold pollRunning
  split
  · exact he
  · have hr : s.running = false := Bool.eq_false_iff.2 ‹_›
    cases loop with
    | emulation =>
      have hidle : s.fprod = none ∧ s.aprod = none := by simpa [threadOfLoop, threadBusy] using hb
      exact ⟨fun _ => ⟨hr, hidle⟩, he.2⟩
    | presentation =>
      have hidle : s.fcons = none := by simpa [threadOfLoop, threadBusy] using hb
      exact ⟨he.1, fun _ => ⟨hr, hidle⟩⟩

theorem step_endedOk (h : endedOk s) (hs : step s = .next t) : endedOk t := by
  refine step_keeps (P := endedOk) (fun _ _ hu => hu) (fun _ _ hu => hu) (fun side n u v hu ha => ?_)
    (fun loop u hu _ hb => pollRunning_endedOk hb hu) (fun i u v hu _ hp he => exec_endedOk hp hu he)
    (fun u f F hu _ hp _ _ => ?_) (fun u hu _ hp _ => ?_) (fun u xs hu _ hp _ => ?_) (fun _ _ hu _ _ _ => hu) h hs
  · obtain ⟨hr, _, hem, hpr⟩ := advance_run_fields ha
    obtain ⟨hfprod, hfcons, haprod, _⟩ := advance_begins_nothing ha
    rw [endedOk, hr, hem, hpr]
    exact ⟨fun hend => (hu.1 hend).imp_right (And.imp hfprod haprod), fun hend => (hu.2 hend).imp_right hfcons⟩
  · exact ⟨fun hend => absurd hend (Bool.eq_false_iff.1 (presentable_fpub hp).1), hu.2⟩
  · exact ⟨hu.1, fun hend => absurd hend (Bool.eq_false_iff.1 (presentable_facq hp).1)⟩
  · exact ⟨fun hend => absurd hend (Bool.eq_false_iff.1 (presentable_apush hp).1), hu.2⟩

end Sys2Proof.Machine

open Sys2Proof Sys2Proof.Machine

/-- Settles O48: the first part is the invariant of the cursors; the second joins it to those of the other parts of `safe`. -/
theorem ringCursorsWithinCapacity : Obligations.RingCursorsWithinCapacity := by
  refine ⟨fun s t hwf h hs => step_cursorsOk hwf h hs, fun s t hsafe hs => ?_⟩
  obtain ⟨hwf, hgun, hirq, hmem, huntorn, hcursors, hsingle, hstarted, hended⟩ := hsafe
  obtain ⟨hgun', hirq'⟩ := gunAndIrqStayInRange s t hgun hirq hs
  exact ⟨step_cfg hs ▸ hwf, hgun', hirq', memoriesStayCanonical s t hwf hmem hs, noTearingStepByStep s t huntorn hs,
    step_cursorsOk hwf hcursors hs, step_emulationSingle hsingle hs, step_startedOk hstarted hs, step_endedOk hended hs⟩

/-- Settles O58: at reset every channel is empty and idle, and no loop has ended. -/
theorem resetStateIsSafe : Obligations.ResetStateIsSafe := by
  have hwf : State.reset.cfg.wf = true := by decide
  have havail : availNow State.reset = 0 := by decide
  have hgun : gunOk State.reset := Nat.zero_le _
  have hirq : irqOk State.reset := Nat.two_pow_pos _
  have hmem : memoriesOk State.reset := ⟨Memory.wf_nil _, Memory.wf_nil _, nofun, trivial, trivial⟩
  have huntorn : untorn State.reset := ⟨⟨⟨nofun, nofun⟩, ⟨nofun, nofun⟩⟩, trivial, trivial⟩
  have hcursors : cursorsOk State.reset :=
    ⟨Nat.two_pow_pos _, Nat.two_pow_pos _, havail ▸ Nat.zero_le _, trivial, trivial⟩
  refine ⟨⟨hwf, hgun, hirq, hmem, huntorn, hcursors, ?_, ?_, ?_⟩, ⟨hwf, rfl, rfl, hcursors, trivial, trivial⟩,
    fun _ _ _ => rfl, ?_⟩
  · exact emulationSingle_iff.2 (.inl rfl)
  · exact fun _ => ⟨rfl, rfl, rfl, rfl, rfl, rfl⟩
  · exact ⟨nofun, nofun⟩
  · rw [ringContents, havail]
    rfl
end

section
/-! SUPPORT. The region dispatch under a legal map (20_memory.md R41), and an access of the PPU region: what it does depends
on the register selected alone (20_memory.md R42, 40_bus.md R92, R100). -/

namespace Sys2Proof.Machine

variable {s : State} {a b : Addr}

/-- `region` finds the PPU region of a legal map. -/
theorem region_of_ppu {m : AddrMap} (hm : m.wf = true) (ha : m.ppu.has a = true) : region m a = .ppu := by
  obtain ⟨_, hppu, _⟩ := everyAddressHasOneRegion m a hm
  exact hppu.2 ha

/-- `region` finds the IO region of a legal map. -/
theorem region_of_io {m : AddrMap} (hm : m.wf = true) (ha : m.io.has a = true) : region m a = .io := by
  obtain ⟨_, _, hio, _⟩ := everyAddressHasOneRegion m a hm
  exact hio.2 ha

theorem ppuRegister_congr (m : AddrMap) (h : a.toNat % 8 = b.toNat % 8) : ppuRegister m a = ppuRegister m b := by
  have hmod : a % 8#16 = b % 8#16 := BitVec.eq_of_toNat_eq h
  rw [ppuRegister, ppuRegister, hmod]

theorem busRead_ppu (hm : s.cfg.map.wf = true) (ha : s.cfg.map.ppu.has a = true) :
    busRead a s = query (.ppuReads (ppuRegister s.cfg.map a)) s := by
  simp only [busRead, region_of_ppu hm ha, readPpu]

theorem busWrite_ppu (v : Byte) (hm : s.cfg.map.wf = true) (ha : s.cfg.map.ppu.has a = true) :
    busWrite a v s = notify (.ppuWrites (ppuRegister s.cfg.map a) v) s := by
  simp only [busWrite, region_of_ppu hm ha, writePpu]

end Sys2Proof.Machine

open Sys2Proof Sys2Proof.Machine

/-- Settles O15: in the PPU region a read and a write make one call, with the register's address, and addresses equal
modulo 8 select one register. -/
theorem ppuRegistersMirrored : Obligations.PpuRegistersMirrored := by
  intro s a b v hwf ha hb hmod
  have hreg : ppuRegister s.cfg.map a = ppuRegister s.cfg.map b := ppuRegister_congr s.cfg.map hmod
  have hread : busRead a s = busRead b s := by rw [busRead_ppu hwf ha, busRead_ppu hwf hb, hreg]
  have hwrite : busWrite a v s = busWrite b v s := by rw [busWrite_ppu v hwf ha, busWrite_ppu v hwf hb, hreg]
  exact ⟨congrArg Host.Outcome.next hread, congrArg Host.Outcome.next hwrite⟩
end

section
/-! SUPPORT. CPU-side accesses seen from CORE's own state: which of them only forward, and the port reads at the addresses
of a legal map (20_memory.md R52, 40_bus.md R94, R95). -/

namespace Sys2Proof

/-- A legal map has its ports in IO, at two addresses (00_scope.md R9). -/
theorem AddrMap.ports_of_wf {m : AddrMap} (h : m.wf = true) :
    m.io.has m.port1Addr = true ∧ m.io.has m.port2Addr = true ∧ m.port1Addr ≠ m.port2Addr := by
  simp only [AddrMap.wf, Bool.and_eq_true, decide_eq_true_eq] at h
  obtain ⟨⟨⟨_, hport1⟩, hport2⟩, hne⟩ := h
  exact ⟨hport1, hport2, hne⟩

end Sys2Proof

namespace Sys2Proof.Machine

variable {s t : State} {a : Addr}

/-- What only forwards leaves CORE's own state alone. -/
theorem coreOf_of_forwards (h : forwards s t) : coreOf t = coreOf s := by
  rw [h]; rfl

theorem busRead_forwards (h1 : a ≠ s.cfg.map.port1Addr) (h2 : a ≠ s.cfg.map.port2Addr) : forwards s (busRead a s) := by
  rcases busRead_cases a with ⟨h, _⟩ | ⟨h, _⟩ | h
  · exact absurd h h1
  · exact absurd h h2
  · exact h

theorem busWrite_forwards (v : Byte) (h : a ≠ s.cfg.map.strobeAddr) : forwards s (busWrite a v s) :=
  (busWrite_cases a v).resolve_left fun ⟨ha, _⟩ => h ha

theorem busRead_port1 (hm : s.cfg.map.wf = true) : busRead s.cfg.map.port1Addr s = readPort1 s := by
  obtain ⟨hport1, _, _⟩ := AddrMap.ports_of_wf hm
  simp only [busRead, region_of_io hm hport1, if_true]

theorem busRead_port2 (hm : s.cfg.map.wf = true) : busRead s.cfg.map.port2Addr s = readPort2 s := by
  obtain ⟨_, hport2, hne⟩ := AddrMap.ports_of_wf hm
  simp only [busRead, region_of_io hm hport2, hne.symm, if_true, if_false]

/-! Port reads in Latching are idempotent. -/

theorem readPort1_idem (hs : s.strobe = true) : readPort1 (readPort1 s) = readPort1 s := by
  cases hc : s.connected <;> simp [readPort1_latching, hs, hc]

theorem readPort2_idem (hs : s.strobe = true) : readPort2 (readPort2 s) = readPort2 s := by
  cases hc : s.connected
  · simp [readPort2_latching, hs, hc]
  · simp [readPort2_gun, hc]

theorem readPort1_cfg (s : State) : (readPort1 s).cfg = s.cfg := by
  obtain ⟨_, _, _, hread⟩ := readPort1_changes s
  rw [hread]

theorem readPort2_cfg (s : State) : (readPort2 s).cfg = s.cfg := by
  obtain ⟨_, _, _, hread⟩ := readPort2_changes s
  rw [hread]

theorem busRead_port1_again (hm : s.cfg.map.wf = true) (hs : s.strobe = true) :
    busRead s.cfg.map.port1Addr (readPort1 s) = readPort1 s := by
  have hagain := busRead_port1 (s := readPort1 s) (by rwa [readPort1_cfg])
  rwa [readPort1_cfg, readPort1_idem hs] at hagain

theorem busRead_port2_again (hm : s.cfg.map.wf = true) (hs : s.strobe = true) :
    busRead s.cfg.map.port2Addr (readPort2 s) = readPort2 s := by
  have hagain := busRead_port2 (s := readPort2 s) (by rwa [readPort2_cfg])
  rwa [readPort2_cfg, readPort2_idem hs] at hagain

/-- A port read touches no more of CORE's own state than the shift registers. -/
theorem coreOf_readPort1 (s : State) :
    coreOf (readPort1 s) = coreOf { s with shift1 := (readPort1 s).shift1, shift2 := (readPort1 s).shift2 } := by
  obtain ⟨_, _, _, hread⟩ := readPort1_changes s
  rw [hread]; rfl

theorem coreOf_readPort2 (s : State) :
    coreOf (readPort2 s) = coreOf { s with shift1 := (readPort2 s).shift1, shift2 := (readPort2 s).shift2 } := by
  obtain ⟨_, _, _, hread⟩ := readPort2_changes s
  rw [hread]; rfl

end Sys2Proof.Machine

open Sys2Proof Sys2Proof.Machine

/-- Settles O20: away from the ports and the strobe an access only forwards; at a port each clause is a case of the read
there, and in Latching the second read finds the registers already reloaded. -/
theorem sideEffectsOfAccesses : Obligations.SideEffectsOfAccesses := by
  intro s t a v hwf
  refine ⟨fun h => ?_, fun h hstrobe => ?_⟩
  · cases h
    refine ⟨fun h1 h2 => coreOf_of_forwards (busRead_forwards h1 h2), fun ha hs => ?_, fun ha hc => ?_,
      fun ha hc hs => ?_, fun ha hs => ?_⟩
    · rw [ha, busRead_port1 hwf, readPort1_shifting s hs]; rfl
    · rw [ha, busRead_port2 hwf, readPort2_gun s hc]; rfl
    · rw [ha, busRead_port2 hwf, readPort2_shifting s hc hs]; rfl
    · rcases ha with rfl | rfl
      · rw [busRead_port1 hwf]
        exact ⟨coreOf_readPort1 s, congrArg Host.Outcome.next (busRead_port1_again hwf hs)⟩
      · rw [busRead_port2 hwf]
        exact ⟨coreOf_readPort2 s, congrArg Host.Outcome.next (busRead_port2_again hwf hs)⟩
  · cases h
    exact coreOf_of_forwards (busWrite_forwards v hstrobe)
end

section
/-! SUPPORT. The decoder of operation words, one equivalence an opcode: which words decode, with which payload, and to what
(30_encoding.md R71, R73, R78); and the encoder as its inverse. -/

namespace Sys2Proof

variable {p : Params} {w : Word} {d : BitVec 24} {payload : List Word} {i : Instr}

theorem needZero_eq_ok {n : Nat} {b : BitVec n} {r : Except DecodeError Instr} :
    needZero b r = .ok i ↔ b = 0 ∧ r = .ok i := by
  unfold needZero
  split <;> simp_all

theorem oneWord_eq_ok {r : Except DecodeError Instr} : oneWord payload r = .ok i ↔ payload = [] ∧ r = .ok i := by
  unfold oneWord
  split <;> simp_all

theorem sourceWord_eq_ok {mk : Byte → Instr} :
    sourceWord p d mk = .ok i ↔ opdHi16 d = 0 ∧ (opdLo8 d).toNat < p.irqW ∧ mk (opdLo8 d) = i := by
  rw [sourceWord, needZero_eq_ok]
  split <;> simp_all

/-! The words of each opcode that decode (R71). -/

@[simp] theorem decodeWords_cpur : decodeWords p (mkWord 0x0#4 d) payload = .ok i ↔
    payload = [] ∧ opdLo8 d = 0 ∧ .cpur (opdHi16 d) = i := by
  simp [decodeWords, oneWord_eq_ok, needZero_eq_ok]

@[simp] theorem decodeWords_cpuw : decodeWords p (mkWord 0x1#4 d) payload = .ok i ↔
    payload = [] ∧ .cpuw (opdHi16 d) (opdLo8 d) = i := by
  simp [decodeWords, oneWord_eq_ok]

@[simp] theorem decodeWords_ppur : decodeWords p (mkWord 0x2#4 d) payload = .ok i ↔
    payload = [] ∧ opdLo8 d = 0 ∧ .ppur (opdHi16 d) = i := by
  simp [decodeWords, oneWord_eq_ok, needZero_eq_ok]

@[simp] theorem decodeWords_ppuw : decodeWords p (mkWord 0x3#4 d) payload = .ok i ↔
    payload = [] ∧ .ppuw (opdHi16 d) (opdLo8 d) = i := by
  simp [decodeWords, oneWord_eq_ok]

@[simp] theorem decodeWords_snap : decodeWords p (mkWord 0x4#4 d) payload = .ok i ↔
    payload = [] ∧ opdLo8 d = 0 ∧ .snap (opdHi16 d) = i := by
  simp [decodeWords, oneWord_eq_ok, needZero_eq_ok]

@[simp] theorem decodeWords_gundn : decodeWords p (mkWord 0x5#4 d) payload = .ok i ↔
    payload = [] ∧ opdLo8 d = 0 ∧ (opdMid8 d).toNat ≤ 239 ∧ .gundn (opdHi8 d) (opdMid8 d) = i := by
  by_cases hy : (opdMid8 d).toNat ≤ 239 <;> simp [decodeWords, oneWord_eq_ok, needZero_eq_ok, hy]

@[simp] theorem decodeWords_gunup : decodeWords p (mkWord 0x6#4 d) payload = .ok i ↔
    payload = [] ∧ d = 0 ∧ .gunup = i := by
  simp [decodeWords, oneWord_eq_ok, needZero_eq_ok]

@[simp] theorem decodeWords_guntg : decodeWords p (mkWord 0x7#4 d) payload = .ok i ↔
    payload = [] ∧ d = 0 ∧ .guntg = i := by
  simp [decodeWords, oneWord_eq_ok, needZero_eq_ok]

@[simp] theorem decodeWords_irqa : decodeWords p (mkWord 0x8#4 d) payload = .ok i ↔
    payload = [] ∧ opdHi16 d = 0 ∧ (opdLo8 d).toNat < p.irqW ∧ .irqa (opdLo8 d) = i := by
  simp [decodeWords, oneWord_eq_ok, sourceWord_eq_ok]

@[simp] theorem decodeWords_irqk : decodeWords p (mkWord 0x9#4 d) payload = .ok i ↔
    payload = [] ∧ opdHi16 d = 0 ∧ (opdLo8 d).toNat < p.irqW ∧ .irqk (opdLo8 d) = i := by
  simp [decodeWords, oneWord_eq_ok, sourceWord_eq_ok]

@[simp] theorem decodeWords_irqv : decodeWords p (mkWord 0xA#4 d) payload = .ok i ↔
    payload = [] ∧ d = 0 ∧ .irqv = i := by
  simp [decodeWords, oneWord_eq_ok, needZero_eq_ok]

@[simp] theorem decodeWords_fpub : decodeWords p (mkWord 0xB#4 d) payload = .ok i ↔ payload = [] ∧ .fpub d = i := by
  simp [decodeWords, oneWord_eq_ok]

@[simp] theorem decodeWords_facq : decodeWords p (mkWord 0xC#4 d) payload = .ok i ↔
    payload = [] ∧ d = 0 ∧ .facq = i := by
  simp [decodeWords, oneWord_eq_ok, needZero_eq_ok]

@[simp] theorem decodeWords_apush : decodeWords p (mkWord 0xD#4 d) payload = .ok i ↔
    ∃ l, unpackSamples d.toNat payload = .ok l ∧ .apush l = i := by
  cases hl : unpackSamples d.toNat payload <;> simp [decodeWords, hl]

@[simp] theorem decodeWords_apull : decodeWords p (mkWord 0xE#4 d) payload = .ok i ↔
    payload = [] ∧ .apull d.toNat = i := by
  simp [decodeWords, oneWord_eq_ok]

@[simp] theorem decodeWords_sys : decodeWords p (mkWord 0xF#4 d) payload = .ok i ↔
    payload = [] ∧ decodeSys d = .ok i := by
  simp [decodeWords, oneWord_eq_ok]

theorem decodeWords_of_mbz (h : mbzOf w ≠ 0) : decodeWords p w payload = .error .mbzNotZero := if_pos h

/-- The opcodes: APUSH's, whose words have a payload, SYS's, whose words have a `sub`, and those of the other operations. -/
theorem opcode_cases (c : BitVec 4) : c = 0xD ∨ c = 0xF ∨ c = 0x0 ∨ c = 0x1 ∨ c = 0x2 ∨ c = 0x3 ∨ c = 0x4 ∨ c = 0x5 ∨
    c = 0x6 ∨ c = 0x7 ∨ c = 0x8 ∨ c = 0x9 ∨ c = 0xA ∨ c = 0xB ∨ c = 0xC ∨ c = 0xE := by
  revert c; decide

/-! The SYS group: the five values of `sub` and the argument of each (R71). -/

/-- The argument of SETNMI is one bit. -/
theorem setnmiArg_zero_iff {a : BitVec 16} : a.extractLsb' 1 15 = 0 ↔ a.toNat ≤ 1 := by
  have ha := a.isLt
  rw [← BitVec.toNat_inj, BitVec.extractLsb'_toNat, Nat.shiftRight_eq_div_pow]
  simp
  omega

theorem setnmiArg_of_bit (b : Bool) : ((BitVec.ofBool b).setWidth 16).extractLsb' 1 15 = 0 := by
  revert b; decide

theorem setnmiArg_eq {a : BitVec 16} (h : a.extractLsb' 1 15 = 0) : (BitVec.ofBool (a.getLsbD 0)).setWidth 16 = a := by
  have hbit : ∀ n, n ≤ 1 → (BitVec.ofBool ((BitVec.ofNat 16 n).getLsbD 0)).setWidth 16 = BitVec.ofNat 16 n := by decide
  simpa using hbit a.toNat (setnmiArg_zero_iff.1 h)

theorem decodeSys_eq_ok : decodeSys d = .ok i ↔
    (opdLo8 d = 0 ∧ opdHi16 d = 0 ∧ .reset = i) ∨ (opdLo8 d = 1 ∧ opdHi16 d = 0 ∧ .stop = i) ∨
      (opdLo8 d = 2 ∧ opdHi16 d = 0 ∧ .avail = i) ∨
      (opdLo8 d = 3 ∧ (opdHi16 d).extractLsb' 1 15 = 0 ∧ .setnmi ((opdHi16 d).getLsbD 0) = i) ∨
      (opdLo8 d = 4 ∧ argGap (opdHi16 d) = 0 ∧
        ∃ k, PpuSetter.ofIndex (argK (opdHi16 d)).toNat = some k ∧ .ppucfg k (argVal (opdHi16 d)) = i) := by
  unfold decodeSys
  simp only [← BitVec.toNat_inj (x := opdLo8 d)]
  split
  case h_5 h => cases PpuSetter.ofIndex (argK (opdHi16 d)).toNat <;> simp [h, needZero_eq_ok]
  all_goals simp_all [needZero_eq_ok]

/-! The CPU's own calls under the default map (R74). -/

theorem decode_busRead (hmap : p.map = AddrMap.default) (a : Addr) :
    decode p (.busRead a) = .ok (rowRead (rowOf a)) := by
  rw [decode, if_pos hmap]

theorem decode_busWrite (hmap : p.map = AddrMap.default) (a : Addr) (v : Byte) :
    decode p (.busWrite a v) = .ok (rowWrite (rowOf a) v) := by
  rw [decode, if_pos hmap]

theorem encode_rowRead (r : Row) : encode (rowRead r) = .busRead (rowAddr r) := by cases r <;> rfl

theorem encode_rowWrite (r : Row) (v : Byte) : encode (rowWrite r v) = .busWrite (rowAddr r) v := by cases r <;> rfl

theorem wf_rowRead (hmap : p.map = AddrMap.default) (r : Row) : (rowRead r).wf p = true := by
  cases r <;> exact decide_eq_true hmap

theorem wf_rowWrite (hmap : p.map = AddrMap.default) (r : Row) (v : Byte) : (rowWrite r v).wf p = true := by
  cases r <;> exact decide_eq_true hmap

/-! Decoding what was encoded, and encoding what was decoded. -/

/-- What encodes a well-formed operation decodes to it. -/
theorem decode_encode (h : i.wf p = true) : decode p (encode i) = .ok i := by
  cases i with
  | cpur _ | ppur _ | snap _ | cpuw _ _ | ppuw _ _ | gunup | guntg | irqv | facq | fpub _ => simp [encode, decode]
  | gundn _ _ | irqa _ | irqk _ => simpa [encode, decode, Instr.wf] using h
  | apush xs =>
    have hlen : xs.length < 2 ^ 24 := of_decide_eq_true h
    exact decodeWords_apush.2 ⟨xs, by rw [BitVec.toNat_ofNat, Nat.mod_eq_of_lt hlen, unpack_pack], rfl⟩
  | apull n =>
    have hn : n < 2 ^ 24 := of_decide_eq_true h
    exact decodeWords_apull.2 ⟨rfl, by rw [BitVec.toNat_ofNat, Nat.mod_eq_of_lt hn]⟩
  | reset | stop | avail | ppucfg _ _ => simp [encode, decode, mkSys, decodeSys_eq_ok]
  | setnmi b => simp [encode, decode, mkSys, decodeSys_eq_ok, setnmiArg_of_bit]
  | _ => simp only [encode, decode, if_pos (of_decide_eq_true h), rowOf_rowAddr, rowRead, rowWrite]

theorem mkOpd_of_lo_zero (h : opdLo8 d = 0) : mkOpd (opdHi16 d) 0 = d := h ▸ mkOpd_fields d

theorem mkOpd_of_hi_zero (h : opdHi16 d = 0) : mkOpd 0 (opdLo8 d) = d := h ▸ mkOpd_fields d

theorem encode_of_decodeSys (h : decodeSys d = .ok i) : i.wf p = true ∧ encode i = .words [mkWord 0xF d] := by
  have hd := mkOpd_fields d
  rcases decodeSys_eq_ok.1 h with ⟨hs, ha, rfl⟩ | ⟨hs, ha, rfl⟩ | ⟨hs, ha, rfl⟩ | ⟨hs, ha, rfl⟩ | ⟨hs, ha, k, hk, rfl⟩ <;>
    rw [hs] at hd
  · exact ⟨rfl, by rw [encode, mkSys, ← ha, hd]⟩
  · exact ⟨rfl, by rw [encode, mkSys, ← ha, hd]⟩
  · exact ⟨rfl, by rw [encode, mkSys, ← ha, hd]⟩
  · exact ⟨rfl, by rw [encode, mkSys, setnmiArg_eq ha, hd]⟩
  · exact ⟨rfl, by rw [encode, mkSys, index_of_ofIndex hk, mkPpuArg_fields ha, hd]⟩

/-- What a word with its payload decodes to is well-formed and encodes as them. -/
theorem encode_of_decodeWords (h : decodeWords p w payload = .ok i) :
    i.wf p = true ∧ encode i = .words (w :: payload) := by
  have hmbz : mbzOf w = 0 := by
    by_contra hne
    rw [decodeWords_of_mbz hne] at h
    cases h
  obtain ⟨c, d, rfl⟩ : ∃ c d, w = mkWord c d := ⟨_, _, (mkWord_fields hmbz).symm⟩
  rcases opcode_cases c with rfl | rfl | rfl | rfl | rfl | rfl | rfl | rfl | rfl | rfl | rfl | rfl | rfl | rfl | rfl | rfl
  · obtain ⟨l, hl, rfl⟩ := decodeWords_apush.1 h
    obtain ⟨hlen, hpack⟩ := pack_unpack hl
    exact ⟨decide_eq_true (hlen ▸ d.isLt), by rw [encode, hlen, hpack, BitVec.ofNat_toNat, BitVec.setWidth_eq]⟩
  · obtain ⟨rfl, hsys⟩ := decodeWords_sys.1 h
    exact encode_of_decodeSys hsys
  · obtain ⟨rfl, hlo, rfl⟩ := decodeWords_cpur.1 h
    exact ⟨rfl, by rw [encode, mkOpd_of_lo_zero hlo]⟩
  · obtain ⟨rfl, rfl⟩ := decodeWords_cpuw.1 h
    exact ⟨rfl, by rw [encode, mkOpd_fields]⟩
  · obtain ⟨rfl, hlo, rfl⟩ := decodeWords_ppur.1 h
    exact ⟨rfl, by rw [encode, mkOpd_of_lo_zero hlo]⟩
  · obtain ⟨rfl, rfl⟩ := decodeWords_ppuw.1 h
    exact ⟨rfl, by rw [encode, mkOpd_fields]⟩
  · obtain ⟨rfl, hlo, rfl⟩ := decodeWords_snap.1 h
    exact ⟨rfl, by rw [encode, mkOpd_of_lo_zero hlo]⟩
  · obtain ⟨rfl, hlo, hy, rfl⟩ := decodeWords_gundn.1 h
    exact ⟨decide_eq_true hy, by rw [encode, ← opdHi16_eq_append, mkOpd_of_lo_zero hlo]⟩
  · obtain ⟨rfl, rfl, rfl⟩ := decodeWords_gunup.1 h
    exact ⟨rfl, rfl⟩
  · obtain ⟨rfl, rfl, rfl⟩ := decodeWords_guntg.1 h
    exact ⟨rfl, rfl⟩
  · obtain ⟨rfl, hhi, hsrc, rfl⟩ := decodeWords_irqa.1 h
    exact ⟨decide_eq_true hsrc, by rw [encode, mkOpd_of_hi_zero hhi]⟩
  · obtain ⟨rfl, hhi, hsrc, rfl⟩ := decodeWords_irqk.1 h
    exact ⟨decide_eq_true hsrc, by rw [encode, mkOpd_of_hi_zero hhi]⟩
  · obtain ⟨rfl, rfl, rfl⟩ := decodeWords_irqv.1 h
    exact ⟨rfl, rfl⟩
  · obtain ⟨rfl, rfl⟩ := decodeWords_fpub.1 h
    exact ⟨rfl, rfl⟩
  · obtain ⟨rfl, rfl, rfl⟩ := decodeWords_facq.1 h
    exact ⟨rfl, rfl⟩
  · obtain ⟨rfl, rfl⟩ := decodeWords_apull.1 h
    exact ⟨decide_eq_true d.isLt, by rw [encode, BitVec.ofNat_toNat, BitVec.setWidth_eq]⟩

end Sys2Proof

open Sys2Proof Sys2Proof.Machine

/-- Settles O1: operation by operation, the decoder's equivalence for the opcode; the rows by `rowOf_rowAddr`. -/
theorem decodeOfEncode : Obligations.DecodeOfEncode := fun _ _ => decode_encode

/-- Settles O2: a word by its opcode, a call of the CPU by the row of its address; under another map it is CPUR or CPUW. -/
theorem encodeOfDecode : Obligations.EncodeOfDecode := by
  intro p what i h
  match what with
  | .words [] => cases h
  | .words (w :: payload) =>
    obtain ⟨hwf, hencode⟩ := encode_of_decodeWords h
    exact ⟨hwf, fun _ => hencode⟩
  | .busRead a =>
    by_cases hmap : p.map = AddrMap.default
    · cases (decode_busRead hmap a).symm.trans h
      exact ⟨wf_rowRead hmap _, fun _ => by rw [encode_rowRead, rowAddr_rowOf]⟩
    · rw [decode, if_neg hmap] at h
      cases h
      exact ⟨rfl, fun hd => absurd (hd.resolve_left nofun) hmap⟩
  | .busWrite a v =>
    by_cases hmap : p.map = AddrMap.default
    · cases (decode_busWrite hmap a v).symm.trans h
      exact ⟨wf_rowWrite hmap _ v, fun _ => by rw [encode_rowWrite, rowAddr_rowOf]⟩
    · rw [decode, if_neg hmap] at h
      cases h
      exact ⟨rfl, fun hd => absurd (hd.resolve_left nofun) hmap⟩

/-- Settles O5: each form is the encoding of its operation, so it decodes to it. -/
theorem specWordsDecode : Obligations.SpecWordsDecode := by
  have hdecode : ∀ {i what}, i.wf Params.default = true → encode i = what → decode Params.default what = .ok i :=
    fun hwf hencode => hencode ▸ decode_encode hwf
  exact ⟨hdecode rfl rfl, hdecode rfl rfl, hdecode rfl rfl, hdecode rfl rfl, hdecode rfl rfl, hdecode rfl rfl,
    hdecode rfl rfl, hdecode rfl rfl, hdecode rfl rfl, hdecode rfl rfl, hdecode rfl rfl, hdecode rfl rfl, hdecode rfl rfl⟩
end

section
/-! SUPPORT. Which words decode at all (30_encoding.md R73, R78), and that a step refuses a form as an illegal word exactly
where it does not decode. -/

namespace Sys2Proof

variable {w : Word} {d : BitVec 24}

theorem highHalf_zero_iff : w.extractLsb' 16 16 = 0 ↔ w.toNat < 2 ^ 16 := by
  have hw := w.isLt
  rw [← BitVec.toNat_inj, BitVec.extractLsb'_toNat, Nat.shiftRight_eq_div_pow]
  simp
  omega

/-- The first word holds two samples: what follows it unpacks as with two samples less. -/
theorem unpack_add_two_ok_iff {n : Nat} {ws : List Word} :
    (∃ l, unpackSamples (n + 2) (w :: ws) = .ok l) ↔ ∃ l, unpackSamples n ws = .ok l := by
  rw [unpack_add_two]
  cases unpackSamples n ws <;> simp

/-- A payload unpacks exactly where it has the length the count asks for, and a zero high half at the end of an odd count. -/
theorem unpack_ok_iff : ∀ (n : Nat) (ws : List Word), (∃ l, unpackSamples n ws = .ok l) ↔
    ws.length = (n + 1) / 2 ∧ (n % 2 = 1 → ∀ last, ws.getLast? = some last → last.toNat < 2 ^ 16)
  | 0, ws => by cases ws <;> simp [unpackSamples]
  | n + 1, [] => by
    have hlen : 0 ≠ (n + 1 + 1) / 2 := by omega
    cases n <;> simp [unpackSamples, hlen]
  | 1, [w] => by
    have hhigh := highHalf_zero_iff (w := w)
    by_cases hw : w.extractLsb' 16 16 = 0 <;> simp_all [unpack_one]
  | 1, _ :: _ :: _ => by simp [unpack_one]
  | n + 2, w :: ws => by
    rw [unpack_add_two_ok_iff, unpack_ok_iff n ws]
    cases ws with
    | nil => simp; omega
    | cons v ws =>
      have hlen : ws.length + 1 + 1 = (n + 2 + 1) / 2 ↔ ws.length + 1 = (n + 1) / 2 := by omega
      simp [hlen]

theorem ofIndex_ok_iff {n : Nat} : (∃ k, PpuSetter.ofIndex n = some k) ↔ n < 5 := by
  match n with
  | 0 | 1 | 2 | 3 | 4 => simp [PpuSetter.ofIndex]
  | n + 5 => simp [PpuSetter.ofIndex]

theorem decodeSys_ok_iff : (∃ i, decodeSys d = .ok i) ↔
    (((opdLo8 d).toNat ≤ 2 → opdHi16 d = 0) ∧ (opdLo8 d = 3 → (opdHi16 d).toNat ≤ 1) ∧
      (opdLo8 d = 4 → argGap (opdHi16 d) = 0)) ∧
    (opdLo8 d).toNat < 5 ∧ (opdLo8 d = 4 → (argK (opdHi16 d)).toNat < 5) := by
  have hsub : ∀ sub : BitVec 8, sub = 0 ∨ sub = 1 ∨ sub = 2 ∨ sub = 3 ∨ sub = 4 ∨ 5 ≤ sub.toNat := by decide
  simp only [decodeSys_eq_ok, setnmiArg_zero_iff, ← ofIndex_ok_iff (n := (argK _).toNat)]
  rcases hsub (opdLo8 d) with h | h | h | h | h | h
  · simp [h]
  · simp [h]
  · simp [h]
  · simp [h]
  · simp [h]
  · have hne : ∀ k : BitVec 8, k.toNat < 5 → opdLo8 d ≠ k := by rintro k hk rfl; omega
    simp [hne, h]

end Sys2Proof

namespace Sys2Proof.Machine

variable {s : State} {i : Instr} {agent : Agent} {grain : Grain} {what : Presented} {rest : List Event} {e : DecodeError}
  {p : Params} {w : Word} {d : BitVec 24} {payload : List Word}

/-- A word whose `mbz` is zero decodes exactly where R73 does not list it. -/
theorem decodeWords_ok_iff (c : BitVec 4) :
    (∃ i, decodeWords p (mkWord c d) payload = .ok i) ↔ ¬illegalWord p (mkWord c d) payload := by
  rcases opcode_cases c with rfl | rfl | h
  · simp [illegalWord, unusedFieldSet, payloadWrong, unpack_ok_iff]
  · by_cases hpayload : payload = [] <;>
      simp [illegalWord, unusedFieldSet, payloadWrong, decodeSys_ok_iff, hpayload]
  · rcases h with rfl | rfl | rfl | rfl | rfl | rfl | rfl | rfl | rfl | rfl | rfl | rfl | rfl | rfl <;>
      simp [illegalWord, unusedFieldSet, payloadWrong, and_comm, and_left_comm]

theorem decodeWords_error_iff : (∃ e, decodeWords p w payload = .error e) ↔ illegalWord p w payload := by
  by_cases hmbz : mbzOf w = 0
  · rw [← mkWord_fields hmbz, ← not_iff_not, ← decodeWords_ok_iff]
    cases decodeWords p _ payload <;> simp
  · exact iff_of_true ⟨_, decodeWords_of_mbz hmbz⟩ (.inl hmbz)

/-- Every operation of the Bus completes. -/
theorem exec_busOp_next (hb : busOp i = true) (s : State) : ∃ t, exec i s = .next t := by
  have hall : BusRespects (fun _ _ => True) s s :=
    ⟨rfl, fun _ => trivial, fun _ => trivial, fun _ => trivial, fun _ => trivial, trivial, trivial, fun _ => trivial⟩
  obtain ⟨t, _, ht, _⟩ := hall.exec hb
  exact ⟨t, ht⟩

/-- The meaning of an operation never refuses the form it was presented in. -/
theorem exec_ne_illegalWord (i : Instr) (s : State) (e : DecodeError) : exec i s ≠ .refused (.illegalWord e) := by
  cases hb : busOp i with
  | true =>
    obtain ⟨t, ht⟩ := exec_busOp_next hb s
    rw [ht]
    nofun
  | false =>
    cases i with
    | gundn _ _ => simp only [exec, execGundn]; split <;> nofun
    | irqa _ => simp only [exec, execIrqa]; split <;> nofun
    | irqk _ => simp only [exec, execIrqk]; split <;> nofun
    | fpub _ =>
      simp only [exec, execFpub]
      split
      · nofun
      · split <;> nofun
    | facq => simp only [exec, execFacq]; split <;> nofun
    | apush _ => simp only [exec, execApush]; split <;> nofun
    | apull _ => simp only [exec, execApull]; split <;> nofun
    | snap _ | gunup | guntg | irqv | reset | stop | avail => nofun
    | _ => cases hb

/-- Nor does beginning one. -/
theorem begins_ne_illegalWord (i : Instr) (s : State) (e : DecodeError) :
    begins i s ≠ some (.refused (.illegalWord e)) := by
  unfold begins
  split
  · simp only [beginFpub]
    split
    · nofun
    · split <;> nofun
  · simp only [beginFacq]; split <;> nofun
  · simp only [beginApush]; split <;> nofun
  · simp only [beginApull]; split <;> nofun
  · nofun
  · nofun

theorem admitted_eq_illegalWord_iff : admitted s agent what = .error (.illegalWord e) ↔ decode s.cfg what = .error e := by
  cases hd : decode s.cfg what with
  | error e' => simp [admitted, hd]
  | ok i =>
    rw [admitted_of_decode hd]
    split_ifs <;> simp

/-- A step refuses a form as an illegal word exactly where the form does not decode, whoever presents it. -/
theorem step_eq_illegalWord_iff (hin : s.inbox = .present agent grain what :: rest) :
    step s = .refused (.illegalWord e) ↔ decode s.cfg what = .error e := by
  rw [← admitted_eq_illegalWord_iff (agent := agent)]
  refine ⟨fun h => ?_, step_of_not_admitted hin⟩
  cases ha : admitted s agent what with
  | error r =>
    rw [step_of_not_admitted hin ha] at h
    cases h
    rfl
  | ok i =>
    have hrun : ¬(grain = .atomic ∨ begins i (takeEntry rest s) = none) := fun hg =>
      exec_ne_illegalWord i (takeEntry rest s) e ((step_of_admitted hin ha hg).symm.trans h)
    obtain ⟨hgrain, hbegins⟩ := not_or.1 hrun
    cases grain with
    | atomic => exact absurd rfl hgrain
    | stepwise =>
      obtain ⟨out, hout⟩ := Option.ne_none_iff_exists'.1 hbegins
      rw [step_of_begins hin ha hout] at h
      exact absurd (h ▸ hout) (begins_ne_illegalWord i _ e)

end Sys2Proof.Machine

open Sys2Proof Sys2Proof.Machine

/-- Settles O3: a step refuses a word as illegal where it does not decode, and R73 lists the words that do not. -/
theorem illegalWordsAreRefused : Obligations.IllegalWordsAreRefused := by
  intro s agent grain w payload rest hin
  simp only [step_eq_illegalWord_iff hin]
  exact decodeWords_error_iff
end

section
/-! SUPPORT. The (match, mask) pairs of the address decode (30_encoding.md R74): an address matches the pair of its row, and
no two pairs have an address in common. -/

namespace Sys2Proof.Machine

/-- An offset of `k` bits has none under the mask of the bits from `k` on. -/
theorem offset_and_highMask {k : Nat} (off : BitVec k) : off.setWidth 16 &&& (BitVec.allOnes 16 <<< k) = 0#16 := by
  ext j hj
  by_cases hk : j < k
  · simp [hk]
  · simp [BitVec.getLsbD_of_ge off j (by omega)]

/-- A match with no bit below `k`, plus an offset of `k` bits, gives the match under that mask. -/
theorem match_add_offset {k : Nat} {mtch mask : Addr} (off : BitVec k) (hmask : mask = BitVec.allOnes 16 <<< k)
    (hmatch : mtch &&& BitVec.allOnes 16 <<< k = mtch) : (mtch + off.setWidth 16) &&& mask = mtch := by
  subst hmask
  have hdisj : mtch &&& off.setWidth 16 = 0#16 := by
    rw [← hmatch, BitVec.and_assoc, BitVec.and_comm (_ <<< _), offset_and_highMask, BitVec.and_zero]
  rw [BitVec.add_eq_or_of_and_eq_zero _ _ hdisj, BitVec.and_or_distrib_right, hmatch, offset_and_highMask, BitVec.or_zero]

theorem rowAddr_matches (r : Row) : rowAddr r &&& (rowMatchMask r).2 = (rowMatchMask r).1 := by
  cases r with
  | port1Strobe | port2 => rfl
  | _ off => exact match_add_offset off rfl (by decide)

theorem rowMatchMask_mem (r : Row) : rowMatchMask r ∈ addressTable := by
  cases r <;> simp [rowMatchMask, addressTable]

/-- Pairs whose matches agree where both masks look are one pair. -/
theorem addressTable_disjoint :
    ∀ m ∈ addressTable, ∀ q ∈ addressTable, m.1 &&& q.2 = q.1 &&& m.2 → m = q := by
  simp [addressTable]

theorem addressTable_nodup : addressTable.Nodup := by simp [addressTable]

theorem eq_of_matches {a : Addr} {m q : Addr × Addr} (hm : m ∈ addressTable) (hq : q ∈ addressTable)
    (ham : a &&& m.2 = m.1) (haq : a &&& q.2 = q.1) : m = q := by
  refine addressTable_disjoint m hm q hq ?_
  rw [← ham, ← haq, BitVec.and_assoc, BitVec.and_assoc, BitVec.and_comm m.2]

/-- The one pair of the table an address matches is its row's. -/
theorem matches_iff {a : Addr} {m : Addr × Addr} (hm : m ∈ addressTable) :
    a &&& m.2 = m.1 ↔ m = rowMatchMask (rowOf a) := by
  have hrow : a &&& (rowMatchMask (rowOf a)).2 = (rowMatchMask (rowOf a)).1 := by
    simpa [rowAddr_rowOf] using rowAddr_matches (rowOf a)
  exact ⟨fun h => eq_of_matches hm (rowMatchMask_mem _) h hrow, fun h => h ▸ hrow⟩

end Sys2Proof.Machine

open Sys2Proof Sys2Proof.Machine

/-- Settles O4: to match is to be the row's pair, which stands in the table once. -/
theorem addressRowsPartition : Obligations.AddressRowsPartition := by
  intro a
  refine ⟨?_, rowAddr_rowOf a⟩
  calc addressTable.filter (fun m => decide (a &&& m.2 = m.1))
    _ = addressTable.filter (fun m => decide (m = rowMatchMask (rowOf a))) :=
      List.filter_congr fun m hm => decide_eq_decide.2 (matches_iff hm)
    _ = [rowMatchMask (rowOf a)] := by
      rw [List.filter_eq, List.count_eq_one_of_mem addressTable_nodup (rowMatchMask_mem _), List.replicate_one]
end

section
/-! SUPPORT. The rows of the address decode and the region dispatch (30_encoding.md R74, 40_bus.md R90, R98): the region of a
row's addresses under the default map, and the handler it leads to. -/

namespace Sys2Proof

theorem Range.has_iff {r : Range} {a : Addr} : r.has a = true ↔ r.base.toNat ≤ a.toNat ∧ a.toNat ≤ r.last.toNat := by
  simp [Range.has, BitVec.le_def]

theorem rowAddr_inj {r q : Row} : rowAddr r = rowAddr q ↔ r = q :=
  ⟨fun h => by rw [← rowOf_rowAddr r, h, rowOf_rowAddr], congrArg rowAddr⟩

/-! CORE's own addresses of the default map, by their rows. -/

theorem default_port1Addr : AddrMap.default.port1Addr = rowAddr .port1Strobe := rfl
theorem default_port2Addr : AddrMap.default.port2Addr = rowAddr .port2 := rfl
theorem default_strobeAddr : AddrMap.default.strobeAddr = rowAddr .port1Strobe := rfl

end Sys2Proof

namespace Sys2Proof.Machine

variable {s : State}

/-- The region a row lies in under the default map. -/
def rowRegion : Row → Region
  | .low0000 _ => .low
  | .ppu2000 _ => .ppu
  | .io4000 _ | .io4010 _ | .io4014 _ | .port1Strobe | .port2 => .io
  | .unmapped4018 _ => .unmapped
  | .cart4020 _ | .cart4040 _ | .cart4080 _ | .cart4100 _ | .cart4200 _ | .cart4400 _ | .cart4800 _ | .cart5000 _
  | .cart6000 _ | .cart8000 _ => .cart

/-- The regions of the default map by their last addresses (20_memory.md R41). -/
theorem region_default (a : Addr) : region AddrMap.default a =
    if a.toNat ≤ 0x1FFF then .low else if a.toNat ≤ 0x3FFF then .ppu else if a.toNat ≤ 0x4017 then .io
    else if a.toNat ≤ 0x401F then .unmapped else .cart := by
  have ha := a.isLt
  simp only [region, Range.has_iff, AddrMap.default, BitVec.toNat_ofNat, BitVec.ofNat_eq_ofNat]
  split_ifs
  any_goals rfl
  all_goals omega

theorem region_rowAddr (r : Row) : region AddrMap.default (rowAddr r) = rowRegion r := by
  rw [region_default]
  cases r with
  | port1Strobe | port2 => rfl
  | _ off =>
    have hoff := off.isLt
    simp only [rowAddr, rowRegion, BitVec.toNat_add, BitVec.toNat_setWidth, BitVec.toNat_ofNat]
    split_ifs
    any_goals rfl
    all_goals omega

/-- A read row does what the region dispatch does at its address: the region is the row's, and in IO the ports are apart. -/
theorem exec_rowRead (hmap : s.cfg.map = AddrMap.default) (r : Row) :
    exec (rowRead r) s = .next (busRead (rowAddr r) s) := by
  cases r <;>
    simp only [busRead, hmap, region_rowAddr, rowRegion, default_port1Addr, default_port2Addr, rowAddr_inj, reduceCtorEq,
      if_true, if_false] <;>
    rfl

theorem exec_rowWrite (hmap : s.cfg.map = AddrMap.default) (r : Row) (v : Byte) :
    exec (rowWrite r v) s = .next (busWrite (rowAddr r) v s) := by
  cases r <;>
    simp only [busWrite, hmap, region_rowAddr, rowRegion, default_strobeAddr, rowAddr_inj, reduceCtorEq, if_true,
      if_false] <;>
    rfl

/-! The LOW region in its two modes (40_bus.md R91, R99). -/

theorem readLow_forward (h : s.cfg.lowMode = .forward) (a : Addr) : readLow a s = query (.workRamReads a) s := by
  simp only [readLow, h]

theorem readLow_unmapped (h : s.cfg.lowMode = .unmapped) (a : Addr) : readLow a s = readUnmapped a s := by
  simp only [readLow, h]

theorem writeLow_forward (h : s.cfg.lowMode = .forward) (a : Addr) (v : Byte) :
    writeLow a v s = notify (.workRamWrites a v) s := by
  simp only [writeLow, h]

theorem writeLow_unmapped (h : s.cfg.lowMode = .unmapped) (a : Addr) (v : Byte) :
    writeLow a v s = writeUnmapped a s := by
  simp only [writeLow, h]

theorem rowAddr_low0000 (off : BitVec 13) : rowAddr (.low0000 off) = off.setWidth 16 := BitVec.zero_add _

/-- The low three bits of a PPU address select the register (20_memory.md R42). -/
theorem ppuRegister_rowAddr (off : BitVec 13) :
    ppuRegister AddrMap.default (rowAddr (.ppu2000 off)) = 0x2000#16 ||| (off.setWidth 16 &&& 7#16) := by
  have hmod : rowAddr (.ppu2000 off) % 8#16 = off.setWidth 16 &&& 7#16 := by
    have hand : (off.setWidth 16 &&& 7#16).toNat = off.toNat % 2 ^ 16 % 8 :=
      (BitVec.toNat_and ..).trans ((Nat.and_two_pow_sub_one_eq_mod _ 3).trans (by rw [BitVec.toNat_setWidth]))
    apply BitVec.eq_of_toNat_eq
    rw [hand, BitVec.toNat_umod, rowAddr, BitVec.toNat_add, BitVec.toNat_setWidth]
    simp only [BitVec.toNat_ofNat, Nat.reducePow, Nat.reduceMod]
    omega
  have hdisj : 0x2000#16 &&& (off.setWidth 16 &&& 7#16) = 0#16 := by
    rw [BitVec.and_comm, BitVec.and_assoc]
    exact BitVec.and_zero
  rw [ppuRegister, hmod]
  exact BitVec.add_eq_or_of_and_eq_zero _ _ hdisj

end Sys2Proof.Machine

open Sys2Proof Sys2Proof.Machine

/-- Settles O19: the row of an address is dispatched as the address is, row by row. -/
theorem rowsAgreeWithBus : Obligations.RowsAgreeWithBus := by
  intro s a v hmap
  rw [exec_rowRead hmap, exec_rowWrite hmap, rowAddr_rowOf]
  exact ⟨rfl, rfl⟩

/-- Settles O17: every read row is handed to its handler with its address; LOW goes by its mode, PPU to the register. -/
theorem readRowsAnswer : Obligations.ReadRowsAnswer := by
  intro s hmap
  refine ⟨fun off h => ?_, fun off h => ?_, fun off => ?_, fun _ => rfl, fun _ => rfl, fun _ => rfl, fun _ => rfl,
    fun _ => rfl, fun _ => rfl, fun _ => rfl, fun _ => rfl, fun _ => rfl, fun _ => rfl, fun _ => rfl, fun _ => rfl,
    fun _ => rfl, fun _ => rfl⟩
  · rw [← rowAddr_low0000]
    exact congrArg Host.Outcome.next (readLow_forward h _)
  · rw [← rowAddr_low0000]
    exact congrArg Host.Outcome.next (readLow_unmapped h _)
  · rw [← ppuRegister_rowAddr, ← hmap]
    rfl

/-- Settles O18: so is every write row. -/
theorem writeRowsComplete : Obligations.WriteRowsComplete := by
  intro s v hmap
  refine ⟨fun off h => ?_, fun off h => ?_, fun off => ?_, fun _ => rfl, fun _ => rfl, fun _ => rfl, rfl, fun _ => rfl,
    fun _ => rfl, fun _ => rfl, fun _ => rfl, fun _ => rfl, fun _ => rfl, fun _ => rfl, fun _ => rfl, fun _ => rfl,
    fun _ => rfl, fun _ => rfl⟩
  · rw [← rowAddr_low0000]
    exact congrArg Host.Outcome.next (writeLow_forward h _ v)
  · rw [← rowAddr_low0000]
    exact congrArg Host.Outcome.next (writeLow_unmapped h _ v)
  · rw [← ppuRegister_rowAddr, ← hmap]
    rfl
end

section
/-! SUPPORT. What operations return (the result column of 30_encoding.md R71), and when the four operations of the channels
complete. -/

namespace Sys2Proof.Machine

variable (s : State)

/-! A read of the Bus returns a byte, a write nothing. -/

theorem readLow_result (a : Addr) : ∃ b, (readLow a s).result = .byte b := by
  unfold readLow
  split <;> exact ⟨_, rfl⟩

theorem writeLow_result (a : Addr) (v : Byte) : (writeLow a v s).result = .none := by
  unfold writeLow
  split <;> rfl

theorem readPort1_result : ∃ b, (readPort1 s).result = .byte b := by
  unfold readPort1
  split <;> exact ⟨_, rfl⟩

theorem readPort2_result : ∃ b, (readPort2 s).result = .byte b := by
  unfold readPort2 readShift2
  split
  · exact ⟨_, rfl⟩
  · split <;> exact ⟨_, rfl⟩

theorem writeStrobe_result (v : Byte) : (writeStrobe v s).result = .none := by rw [writeStrobe_eq]

theorem busRead_result (a : Addr) : ∃ b, (busRead a s).result = .byte b := by
  unfold busRead
  split
  · exact readLow_result s a
  · exact ⟨_, rfl⟩
  · split_ifs
    · exact readPort1_result s
    · exact readPort2_result s
    · exact ⟨_, rfl⟩
  · exact ⟨_, rfl⟩
  · exact ⟨_, rfl⟩

theorem busWrite_result (a : Addr) (v : Byte) : (busWrite a v s).result = .none := by
  unfold busWrite
  split
  · exact writeLow_result s a v
  · rfl
  · split_ifs
    · exact writeStrobe_result s v
    · rfl
  · rfl
  · rfl

theorem pushSamples_result (xs : List Sample) : (pushSamples xs s).result = .none := by
  unfold pushSamples publishSamples
  dsimp only
  split <;> simp

theorem pullSamples_result (n : Nat) : ∃ l, (pullSamples n s).result = .samples l ∧ l.length = n := by
  unfold pullSamples
  split
  · exact ⟨_, rfl, by simp [loadRun]⟩
  · exact ⟨_, rfl, by simp [silence]⟩

variable {s}

/-- A well-formed operation whose needs are met completes with a result of its kind. -/
theorem exec_completes {i : Instr} (hwf : i.wf s.cfg = true) (hrun : canRun i s) :
    ∃ t, exec i s = .next t ∧ resultKind i t.result := by
  cases i with
  | cpur a => exact ⟨_, rfl, busRead_result s a⟩
  | cpuw a v => exact ⟨_, rfl, busWrite_result s a v⟩
  | gundn _ _ | irqa _ | irqk _ => exact ⟨_, if_pos (of_decide_eq_true hwf), rfl⟩
  | fpub f =>
    obtain ⟨hframe, hfree, hlock⟩ := hrun
    obtain ⟨F, hF⟩ := Option.isSome_iff_exists.1 hframe
    exact ⟨publish F s, by simp [exec, execFpub, hF, hfree], by simp [publish, hlock, resultKind]⟩
  | facq =>
    obtain ⟨hfree, hlock⟩ := hrun
    exact ⟨acquire s, by simp [exec, execFacq, hfree], s.slot, by simp [acquire, hlock]⟩
  | apush xs =>
    have hfree : s.aprod = none := hrun
    exact ⟨_, by simp [exec, execApush, hfree], pushSamples_result s xs⟩
  | apull n =>
    have hfree : s.acons = none := hrun
    exact ⟨_, by simp [exec, execApull, hfree], pullSamples_result s n⟩
  | cpurLow0000 off => exact ⟨_, rfl, readLow_result s _⟩
  | cpuwLow0000 off v => exact ⟨_, rfl, writeLow_result s _ v⟩
  | cpurPort1 => exact ⟨_, rfl, readPort1_result s⟩
  | cpurPort2 => exact ⟨_, rfl, readPort2_result s⟩
  | cpuwStrobe v => exact ⟨_, rfl, writeStrobe_result s v⟩
  | ppur _ | irqv | avail | cpurPpu2000 _ | cpurIo4000 _ | cpurIo4010 _ | cpurIo4014 _ | cpurUnmapped4018 _
  | cpurCart4020 _ | cpurCart4040 _ | cpurCart4080 _ | cpurCart4100 _ | cpurCart4200 _ | cpurCart4400 _
  | cpurCart4800 _ | cpurCart5000 _ | cpurCart6000 _ | cpurCart8000 _ => exact ⟨_, rfl, _, rfl⟩
  | _ => exact ⟨_, rfl, rfl⟩

end Sys2Proof.Machine

open Sys2Proof Sys2Proof.Machine

/-- Settles O60: operation by operation, the result is that of its handler. -/
theorem operationsAlwaysComplete : Obligations.OperationsAlwaysComplete := fun _ _ => exec_completes

/-- Settles O41: FPUB looks its frame up first; each of the four then asks that its end run nothing. -/
theorem channelMisuseRefused : Obligations.ChannelMisuseRefused := by
  intro s f xs n
  refine ⟨fun hnone => ?_, fun hframe hp => ?_, fun hc => if_pos hc, fun hp => if_pos hp, fun hc => if_pos hc⟩
  · simp only [exec, execFpub, hnone]
  · obtain ⟨F, hF⟩ := Option.isSome_iff_exists.1 hframe
    simp only [exec, execFpub, hF, hp, if_true]

/-- Settles O35: GUNSET is nothing where the connection is as asked, and one toggle where it is not. -/
theorem gunsetExpansion : Obligations.GunsetExpansion := by
  intro s c
  by_cases h : s.connected = c
  · have hexpand : Pseudo.expand s.cfg.map s.connected (.gunset c) = [] := if_pos h
    exact ⟨s, [], by rw [hexpand, runOps_nil], h, fun _ => rfl⟩
  · have hexpand : Pseudo.expand s.cfg.map s.connected (.gunset c) = [.guntg] := if_neg h
    have hexec : exec .guntg s = .next _ := rfl
    exact ⟨_, _, hexpand ▸ runOps_cons [] hexec, Bool.not_eq_iff.2 h, fun hc => absurd hc h⟩
end

section
/-! SUPPORT. The handler of each region of a legal map (20_memory.md R41): the calls of the forwarded regions (40_bus.md R91
to R93, R96, R99 to R101, R103), and the accesses without a handler (R97, R108, 60_exceptions.md R201). -/

namespace Sys2Proof.Machine

variable {s : State} {a : Addr}

/-- `region` finds the LOW region of a legal map. -/
theorem region_of_low {m : AddrMap} (hm : m.wf = true) (ha : m.low.has a = true) : region m a = .low := by
  obtain ⟨hlow, _⟩ := everyAddressHasOneRegion m a hm
  exact hlow.2 ha

/-- `region` finds the CART region of a legal map. -/
theorem region_of_cart {m : AddrMap} (hm : m.wf = true) (ha : m.cart.has a = true) : region m a = .cart := by
  obtain ⟨_, _, _, hcart, _⟩ := everyAddressHasOneRegion m a hm
  exact hcart.2 ha

/-- The canonical address of a PPU register, as a number (20_memory.md R42). -/
theorem ppuRegister_eq_ofNat (m : AddrMap) (a : Addr) :
    ppuRegister m a = BitVec.ofNat 16 (m.ppu.base.toNat + a.toNat % 8) := by
  apply BitVec.eq_of_toNat_eq
  rw [ppuRegister, BitVec.toNat_add, BitVec.toNat_umod, BitVec.toNat_ofNat]
  rfl

/-! The forwarded regions but PPU, whose accesses are `busRead_ppu` and `busWrite_ppu`. -/

theorem busRead_low (hm : s.cfg.map.wf = true) (ha : s.cfg.map.low.has a = true) : busRead a s = readLow a s := by
  simp only [busRead, region_of_low hm ha]

theorem busWrite_low (v : Byte) (hm : s.cfg.map.wf = true) (ha : s.cfg.map.low.has a = true) :
    busWrite a v s = writeLow a v s := by
  simp only [busWrite, region_of_low hm ha]

theorem busRead_io (hm : s.cfg.map.wf = true) (ha : s.cfg.map.io.has a = true) (h1 : a ≠ s.cfg.map.port1Addr)
    (h2 : a ≠ s.cfg.map.port2Addr) : busRead a s = query (.apuReads a) s := by
  simp only [busRead, region_of_io hm ha, h1, h2, if_false, readApu]

theorem busWrite_io (v : Byte) (hm : s.cfg.map.wf = true) (ha : s.cfg.map.io.has a = true)
    (h : a ≠ s.cfg.map.strobeAddr) : busWrite a v s = notify (.apuWrites a v) s := by
  simp only [busWrite, region_of_io hm ha, h, if_false, writeApu]

theorem busRead_cart (hm : s.cfg.map.wf = true) (ha : s.cfg.map.cart.has a = true) :
    busRead a s = query (.cartCpuReads a) s := by
  simp only [busRead, region_of_cart hm ha, readCart]

theorem busWrite_cart (v : Byte) (hm : s.cfg.map.wf = true) (ha : s.cfg.map.cart.has a = true) :
    busWrite a v s = notify (.cartCpuWrites a v) s := by
  simp only [busWrite, region_of_cart hm ha, writeCart]

/-! Addresses without a handler. -/

theorem unmappedAt_iff_region : unmappedAt s a = true ↔
    region s.cfg.map a = .unmapped ∨ (region s.cfg.map a = .low ∧ s.cfg.lowMode = .unmapped) := by
  simp only [unmappedAt, Bool.or_eq_true, Bool.and_eq_true, decide_eq_true_eq]

/-- Under a legal map an address has no handler outside the named ranges, and in LOW where LOW is not forwarded. -/
theorem unmappedAt_iff (hm : s.cfg.map.wf = true) : unmappedAt s a = true ↔
    (s.cfg.map.low.has a = false ∧ s.cfg.map.ppu.has a = false ∧ s.cfg.map.io.has a = false ∧
      s.cfg.map.cart.has a = false) ∨ (s.cfg.map.low.has a = true ∧ s.cfg.lowMode = .unmapped) := by
  obtain ⟨hlow, _, _, _, hunmapped⟩ := everyAddressHasOneRegion s.cfg.map a hm
  rw [unmappedAt_iff_region, hunmapped, hlow]

theorem busRead_of_unmappedAt (h : unmappedAt s a = true) : busRead a s = readUnmapped a s := by
  rcases unmappedAt_iff_region.1 h with hr | ⟨hr, hmode⟩
  · simp only [busRead, hr]
  · simp only [busRead, hr, readLow_unmapped hmode]

theorem busWrite_of_unmappedAt (v : Byte) (h : unmappedAt s a = true) : busWrite a v s = writeUnmapped a s := by
  rcases unmappedAt_iff_region.1 h with hr | ⟨hr, hmode⟩
  · simp only [busWrite, hr]
  · simp only [busWrite, hr, writeLow_unmapped hmode]

end Sys2Proof.Machine

open Sys2Proof Sys2Proof.Machine

/-- Settles O12: in each region the dispatch makes the one call of its handler. -/
theorem readsForwardedByRegion : Obligations.ReadsForwardedByRegion := by
  intro s a hm
  refine ⟨fun ha hmode => ?_, fun ha => ?_, fun ha h1 h2 => congrArg Host.Outcome.next (busRead_io hm ha h1 h2),
    fun ha => congrArg Host.Outcome.next (busRead_cart hm ha)⟩
  · exact congrArg Host.Outcome.next ((busRead_low hm ha).trans (readLow_forward hmode a))
  · rw [← ppuRegister_eq_ofNat]
    exact congrArg Host.Outcome.next (busRead_ppu hm ha)

/-- Settles O13: so it does for a write, the strobe's address left out. -/
theorem writesForwardedByRegion : Obligations.WritesForwardedByRegion := by
  intro s a v hm
  refine ⟨fun ha hmode => ?_, fun ha => ?_, fun ha h => congrArg Host.Outcome.next (busWrite_io v hm ha h),
    fun ha => congrArg Host.Outcome.next (busWrite_cart v hm ha)⟩
  · exact congrArg Host.Outcome.next ((busWrite_low v hm ha).trans (writeLow_forward hmode a v))
  · rw [← ppuRegister_eq_ofNat]
    exact congrArg Host.Outcome.next (busWrite_ppu v hm ha)

/-- Settles O14: the addresses of the statement are those of `unmappedAt`, at which the dispatch recovers. -/
theorem unmappedAccessRecovered : Obligations.UnmappedAccessRecovered := by
  intro s a v hm haddr
  have h : unmappedAt s a = true := (unmappedAt_iff hm).2 haddr
  exact ⟨congrArg Host.Outcome.next (busRead_of_unmappedAt h), congrArg Host.Outcome.next (busWrite_of_unmappedAt v h)⟩
end

section
/-! SUPPORT. The strobe write and the port reads as operations, in either of their forms (40_bus.md R94, R95, R102), and the
bytes they leave in the terms of 30_encoding.md R75 and 42_light_gun.md R133. -/

namespace Sys2Proof

/-- A legal map has its strobe in IO (00_scope.md R9). -/
theorem AddrMap.strobe_of_wf {m : AddrMap} (h : m.wf = true) : m.io.has m.strobeAddr = true := by
  simp only [AddrMap.wf, Bool.and_eq_true] at h
  obtain ⟨⟨⟨⟨_, hstrobe⟩, _⟩, _⟩, _⟩ := h
  exact hstrobe

end Sys2Proof

namespace Sys2Proof.Machine

variable {s : State} {i : Instr}

theorem busWrite_strobe (v : Byte) (hm : s.cfg.map.wf = true) :
    busWrite s.cfg.map.strobeAddr v s = writeStrobe v s := by
  simp only [busWrite, region_of_io hm (AddrMap.strobe_of_wf hm), if_true]

theorem exec_strobeWrite {v : Byte} (hm : s.cfg.map.wf = true)
    (h : i = .cpuw s.cfg.map.strobeAddr v ∨ i = .cpuwStrobe v) : exec i s = .next (writeStrobe v s) := by
  rcases h with rfl | rfl
  · exact congrArg Host.Outcome.next (busWrite_strobe v hm)
  · rfl

theorem exec_port1Read (hm : s.cfg.map.wf = true) (h : port1Read s i) : exec i s = .next (readPort1 s) := by
  rcases h with rfl | rfl
  · exact congrArg Host.Outcome.next (busRead_port1 hm)
  · rfl

theorem exec_port2Read (hm : s.cfg.map.wf = true) (h : port2Read s i) : exec i s = .next (readPort2 s) := by
  rcases h with rfl | rfl
  · exact congrArg Host.Outcome.next (busRead_port2 hm)
  · rfl

theorem portByte_eq_serialByte (b : Bool) : portByte b = serialByte b := by cases b <;> rfl

theorem shiftIn_eq (r : Byte) : shiftIn r = (r >>> 1) ||| 0x80 := BitVec.or_comm _ _

/-- The don't-care bits of a light-gun read are those of `GUN_DC` (42_light_gun.md R133). -/
theorem gunByte_dontCare (dc : Byte) (t l : Bool) : gunByte dc t l &&& 0xA7 = dc &&& 0xA7 := by
  have hmask : ∀ j, j < 8 → j = 6 ∨ j = 4 ∨ j = 3 → (0xA7 : Byte).getLsbD j = false := by decide
  apply BitVec.eq_of_getLsbD_eq
  intro j hj
  rw [BitVec.getLsbD_and, BitVec.getLsbD_and, gunByte_getLsbD dc t l j hj]
  by_cases hset : j = 6 ∨ j = 4 ∨ j = 3
  · simp only [hmask j hj hset, Bool.and_false]
  · obtain ⟨h6, h4, h3⟩ : j ≠ 6 ∧ j ≠ 4 ∧ j ≠ 3 := by simpa only [not_or] using hset
    rw [if_neg h6, if_neg h4, if_neg h3]

end Sys2Proof.Machine

open Sys2Proof Sys2Proof.Machine

/-- Settles O22: either form is `WriteStrobe`. -/
theorem strobeWriteReloads : Obligations.StrobeWriteReloads := by
  intro s i v hm hi
  rw [exec_strobeWrite hm hi, writeStrobe_eq]
  rfl

/-- Settles O23: either form is `ReadPort1`, in Latching or in Shifting.  (The name `port1Read` alone is the model's own
predicate, which `open` brings into scope.) -/
theorem port1Read_effect : Obligations.Port1Read := by
  intro s i hm hi
  rw [exec_port1Read hm hi]
  refine ⟨fun hs => ?_, fun hs => ?_⟩
  · rw [readPort1_latching s hs, portByte_eq_serialByte]
  · rw [readPort1_shifting s hs, portByte_eq_serialByte, shiftIn_eq]

/-- Settles O24: either form is `ReadPort2`, which without a light gun shifts or latches. -/
theorem port2ShiftRead : Obligations.Port2ShiftRead := by
  intro s i hm hi hc
  rw [exec_port2Read hm hi]
  refine ⟨fun hs => ?_, fun hs => ?_⟩
  · rw [readPort2_latching s hc hs, portByte_eq_serialByte]
  · rw [readPort2_shifting s hc hs, portByte_eq_serialByte, shiftIn_eq]

/-- Settles O32: with a light gun the read is `ReadGun`, whose byte is known bit by bit. -/
theorem gunRead : Obligations.GunRead := by
  intro s i hm hi hc
  refine ⟨gunByte s.cfg.gunDc s.trigger s.lightSensed, ?_, ?_, ?_, ?_, gunByte_dontCare _ _ _⟩
  · rw [exec_port2Read hm hi, readPort2_gun s hc]
  · exact gunByte_getLsbD _ _ _ 4 (by decide)
  · exact gunByte_getLsbD _ _ _ 3 (by decide)
  · exact gunByte_getLsbD _ _ _ 6 (by decide)
end

section
/-! SUPPORT. Runs of one operation repeated, and of the port reads and strobe writes of the input latch: what they return
and what they leave in the shift registers (41_input_latch.md R112 to R114, R117, R118). -/

namespace Sys2Proof.Machine

variable {s t : State} {i : Instr} {α : Type}

/-! A repeated operation, seen through the part of the state it depends on. -/

/-- Wherever `P` holds, `i` completes, keeps `P`, takes the `view` of the state to its `next`, and returns `out` of it. -/
def actsOn (P : State → Prop) (view : State → α) (next : α → α) (out : α → Result) (i : Instr) : Prop :=
  ∀ u, P u → ∃ v, exec i u = .next v ∧ P v ∧ view v = next (view u) ∧ v.result = out (view u)

/-- Repeating such an operation iterates `next`. -/
theorem runOps_replicate {P : State → Prop} {view : State → α} {next : α → α} {out : α → Result}
    (hi : actsOn P view next out i) (hs : P s) (k : Nat) :
    ∃ t, runOps (List.replicate k i) s = some (t, (List.range k).map (fun j => out (next^[j] (view s)))) ∧
      view t = next^[k] (view s) := by
  induction k generalizing s with
  | zero => exact ⟨s, rfl, rfl⟩
  | succ k ih =>
    obtain ⟨u, hexec, hu, hview, hresult⟩ := hi s hs
    obtain ⟨t, hrun, ht⟩ := ih hu
    rw [hview] at hrun ht
    refine ⟨t, ?_, ht⟩
    rw [List.replicate_succ, runOps_cons _ hexec, hrun, List.range_succ_eq_map, List.map_cons, List.map_map, hresult]
    rfl

/-! The bytes and the register of a run of Shifting reads. -/

/-- Shifted `k` times, a register has its bits `k` places down and ones above them. -/
theorem shiftIn_iterate_getLsbD (r : Byte) (k i : Nat) (hi : i < 8) :
    (shiftIn^[k] r).getLsbD i = (decide (8 ≤ i + k) || r.getLsbD (i + k)) := by
  induction k generalizing i with
  | zero => simp [hi]
  | succ k ih =>
    rw [Function.iterate_succ_apply', shiftIn_getLsbD _ i hi]
    by_cases h7 : i = 7
    · have hone : 8 ≤ i + (k + 1) := by omega
      rw [decide_eq_true h7, decide_eq_true hone, Bool.true_or, Bool.true_or]
    · rw [ih (i + 1) (by omega)]
      simp [h7, Nat.add_right_comm, Nat.add_assoc]

/-- The register after `k` Shifting reads, as R117 writes it. -/
theorem shiftIn_iterate (r : Byte) (k : Nat) :
    shiftIn^[k] r = if k ≤ 8 then BitVec.ofNat 8 (0xFF <<< (8 - k)) ||| (r >>> k) else 0xFF := by
  have hones : ∀ j, Nat.testBit 0xFF j = decide (j < 8) := Nat.testBit_two_pow_sub_one 8
  apply BitVec.eq_of_getLsbD_eq
  intro i hi
  rw [shiftIn_iterate_getLsbD r k i hi]
  split
  · rw [BitVec.getLsbD_or, BitVec.getLsbD_ofNat, BitVec.getLsbD_ushiftRight, Nat.testBit_shiftLeft, hones, Nat.add_comm k i]
    congr 1
    simp only [hi, decide_true, Bool.true_and, ← Bool.decide_and, decide_eq_decide]
    omega
  · have hbit : (0xFF : Byte).getLsbD i = true := (BitVec.getLsbD_ofNat ..).trans (by rw [hones]; simp [hi])
    rw [hbit, decide_eq_true (by omega), Bool.true_or]

/-- The `j`-th Shifting read returns the old bit `j`, and 1 from the ninth read on. -/
theorem portByte_shiftIn_iterate (r : Byte) (j : Nat) :
    portByte ((shiftIn^[j] r).getLsbD 0) = if j < 8 then serialByte (r.getLsbD j) else 0x41 := by
  rw [portByte_eq_serialByte, shiftIn_iterate_getLsbD r j 0 (by decide), Nat.zero_add]
  split
  · rw [decide_eq_false (by omega), Bool.false_or]
  · rw [decide_eq_true (by omega), Bool.true_or]
    rfl

/-! Port reads of a legal map. -/

/-- `t` has of `s` all that decides what a port read does, but for the shift registers. -/
structure SameSettings (s t : State) : Prop where
  cfg : t.cfg = s.cfg
  strobe : t.strobe = s.strobe
  connected : t.connected = s.connected
  snapshot : t.snapshot = s.snapshot

theorem SameSettings.refl (s : State) : SameSettings s s := ⟨rfl, rfl, rfl, rfl⟩

theorem SameSettings.exec_port1 (h : SameSettings s t) (hm : s.cfg.map.wf = true) :
    exec (.cpur s.cfg.map.port1Addr) t = .next (readPort1 t) :=
  exec_port1Read (by rwa [h.cfg]) (.inl (by rw [h.cfg]))

theorem SameSettings.exec_port2 (h : SameSettings s t) (hm : s.cfg.map.wf = true) :
    exec (.cpur s.cfg.map.port2Addr) t = .next (readPort2 t) :=
  exec_port2Read (by rwa [h.cfg]) (.inl (by rw [h.cfg]))

/-- In Shifting a port-1 read acts on shift1 (R113). -/
theorem port1_actsOn_shift1 (hm : s.cfg.map.wf = true) (hs : s.strobe = false) :
    actsOn (SameSettings s) State.shift1 shiftIn (fun r => .byte (portByte (r.getLsbD 0))) (.cpur s.cfg.map.port1Addr) := by
  intro u hu
  rw [hu.exec_port1 hm, readPort1_shifting u (hu.strobe.trans hs)]
  exact ⟨_, rfl, ⟨hu.cfg, hu.strobe, hu.connected, hu.snapshot⟩, rfl, rfl⟩

/-- In Shifting with no light gun a port-2 read acts on shift2 (R114). -/
theorem port2_actsOn_shift2 (hm : s.cfg.map.wf = true) (hc : s.connected = false) (hs : s.strobe = false) :
    actsOn (SameSettings s) State.shift2 shiftIn (fun r => .byte (portByte (r.getLsbD 0))) (.cpur s.cfg.map.port2Addr) := by
  intro u hu
  rw [hu.exec_port2 hm, readPort2_shifting u (hu.connected.trans hc) (hu.strobe.trans hs)]
  exact ⟨_, rfl, ⟨hu.cfg, hu.strobe, hu.connected, hu.snapshot⟩, rfl, rfl⟩

/-- In Latching a port-1 read returns bit 0 of the snapshot, which it keeps (R113). -/
theorem port1_actsOn_snapshot (hm : s.cfg.map.wf = true) (hs : s.strobe = true) :
    actsOn (SameSettings s) State.snapshot id (fun b => .byte (portByte (b.getLsbD 0))) (.cpur s.cfg.map.port1Addr) := by
  intro u hu
  rw [hu.exec_port1 hm, readPort1_latching u (hu.strobe.trans hs)]
  exact ⟨_, rfl, ⟨hu.cfg, hu.strobe, hu.connected, hu.snapshot⟩, rfl, rfl⟩

theorem runOps_port1_shifting (hm : s.cfg.map.wf = true) (hs : s.strobe = false) (k : Nat) :
    ∃ t, runOps (List.replicate k (.cpur s.cfg.map.port1Addr)) s = some (t, (List.range k).map (fun j =>
        .byte (if j < 8 then serialByte (s.shift1.getLsbD j) else 0x41))) ∧ t.shift1 = shiftIn^[k] s.shift1 := by
  simpa only [portByte_shiftIn_iterate] using runOps_replicate (port1_actsOn_shift1 hm hs) (SameSettings.refl s) k

theorem runOps_port2_shifting (hm : s.cfg.map.wf = true) (hc : s.connected = false) (hs : s.strobe = false) (k : Nat) :
    ∃ t, runOps (List.replicate k (.cpur s.cfg.map.port2Addr)) s = some (t, (List.range k).map (fun j =>
        .byte (if j < 8 then serialByte (s.shift2.getLsbD j) else 0x41))) ∧ t.shift2 = shiftIn^[k] s.shift2 := by
  simpa only [portByte_shiftIn_iterate] using runOps_replicate (port2_actsOn_shift2 hm hc hs) (SameSettings.refl s) k

theorem runOps_port1_latching (hm : s.cfg.map.wf = true) (hs : s.strobe = true) (m : Nat) :
    ∃ t, runOps (List.replicate m (.cpur s.cfg.map.port1Addr)) s =
      some (t, List.replicate m (.byte (portByte (s.snapshot.getLsbD 0)))) := by
  obtain ⟨t, hrun, _⟩ := runOps_replicate (port1_actsOn_snapshot hm hs) (SameSettings.refl s) m
  simp only [Function.iterate_id, id_eq, List.map_const', List.length_range] at hrun
  exact ⟨t, hrun⟩

/-! Strobe writes of a legal map. -/

@[simp] theorem writeStrobe_cfg (v : Byte) (s : State) : (writeStrobe v s).cfg = s.cfg := by rw [writeStrobe_eq]
@[simp] theorem writeStrobe_snapshot (v : Byte) (s : State) : (writeStrobe v s).snapshot = s.snapshot := by
  rw [writeStrobe_eq]
@[simp] theorem writeStrobe_strobe (v : Byte) (s : State) : (writeStrobe v s).strobe = v.getLsbD 0 := by
  rw [writeStrobe_eq]; rfl

theorem writeStrobe_shift1 (v : Byte) (h : s.strobe = true ∨ v.getLsbD 0 = true) :
    (writeStrobe v s).shift1 = s.snapshot.extractLsb' 0 8 := by
  rw [writeStrobe_eq]
  exact if_pos (Bool.or_eq_true_iff.2 h)

/-- Writes with bit 0 set leave the latch in Latching, and the snapshot and the parameters alone (R112). -/
theorem runOps_strobeHigh (hm : s.cfg.map.wf = true) (vs : List Byte) (hvs : ∀ v ∈ vs, v.getLsbD 0 = true)
    (hs : vs = [] → s.strobe = true) :
    ∃ t rs, runOps (vs.map (.cpuw s.cfg.map.strobeAddr)) s = some (t, rs) ∧ rs.length = vs.length ∧
      t.strobe = true ∧ t.snapshot = s.snapshot ∧ t.cfg = s.cfg := by
  induction vs generalizing s with
  | nil => exact ⟨s, [], rfl, rfl, hs rfl, rfl, rfl⟩
  | cons v vs ih =>
    obtain ⟨hv, hvs'⟩ := List.forall_mem_cons.1 hvs
    have hexec : exec (.cpuw s.cfg.map.strobeAddr v) s = .next (writeStrobe v s) := exec_strobeWrite hm (.inl rfl)
    have hmap : (writeStrobe v s).cfg.map.wf = true := by rwa [writeStrobe_cfg]
    obtain ⟨t, rs, hrun, hlen, hstrobe, hsnap, hcfg⟩ := ih hmap hvs' (fun _ => (writeStrobe_strobe v s).trans hv)
    rw [writeStrobe_cfg] at hrun hcfg
    rw [writeStrobe_snapshot] at hsnap
    refine ⟨t, (writeStrobe v s).result :: rs, ?_, congrArg (· + 1) hlen, hstrobe, hsnap, hcfg⟩
    rw [List.map_cons, runOps_cons _ hexec, hrun]
    rfl

/-- A pulse of the strobe leaves the latch in Shifting with controller 1's byte in shift1 (R112). -/
theorem runOps_pulse (hm : s.cfg.map.wf = true) :
    ∃ t, runOps [.cpuw s.cfg.map.strobeAddr 0x01, .cpuw s.cfg.map.strobeAddr 0x00] s = some (t, [.none, .none]) ∧
      t.strobe = false ∧ t.shift1 = s.snapshot.extractLsb' 0 8 ∧ t.cfg = s.cfg := by
  have hrise : exec (.cpuw s.cfg.map.strobeAddr 0x01) s = .next (writeStrobe 0x01 s) := exec_strobeWrite hm (.inl rfl)
  have hfall : exec (.cpuw s.cfg.map.strobeAddr 0x00) (writeStrobe 0x01 s) =
      .next (writeStrobe 0x00 (writeStrobe 0x01 s)) :=
    exec_strobeWrite (by rwa [writeStrobe_cfg]) (.inl (by rw [writeStrobe_cfg]))
  have hhigh : (writeStrobe 0x01 s).strobe = true := writeStrobe_strobe _ _
  refine ⟨writeStrobe 0x00 (writeStrobe 0x01 s), ?_, writeStrobe_strobe _ _, ?_, ?_⟩
  · rw [runOps_cons _ hrise, runOps_cons _ hfall, writeStrobe_result, writeStrobe_result]
    rfl
  · rw [writeStrobe_shift1 _ (.inl hhigh), writeStrobe_snapshot]
  · rw [writeStrobe_cfg, writeStrobe_cfg]

/-- After a pulse port 1 returns the eight bits of controller 1 in order, then 1 (R118). -/
theorem runOps_pulse_reads (hm : s.cfg.map.wf = true) (k : Nat) :
    ∃ t, runOps ([.cpuw s.cfg.map.strobeAddr 0x01, .cpuw s.cfg.map.strobeAddr 0x00] ++
        List.replicate k (.cpur s.cfg.map.port1Addr)) s =
      some (t, [.none, .none] ++ (List.range k).map (fun j =>
        .byte (if j < 8 then serialByte (s.snapshot.getLsbD j) else 0x41))) := by
  obtain ⟨u, hpulse, hstrobe, hshift, hcfg⟩ := runOps_pulse hm
  obtain ⟨t, hreads, _⟩ := runOps_port1_shifting (hcfg ▸ hm) hstrobe k
  have hbits : ∀ j, (if j < 8 then serialByte (u.shift1.getLsbD j) else 0x41) =
      if j < 8 then serialByte (s.snapshot.getLsbD j) else 0x41 := fun j => by
    by_cases hj : j < 8 <;> simp [hshift, hj]
  simp only [hcfg, hbits] at hreads
  refine ⟨t, ?_⟩
  rw [runOps_append, hpulse, Option.bind_some, hreads]
  rfl

/-- Bit 0 of the snapshot under the open-bus pattern, as R118 writes it. -/
theorem portByte_snapshot (b : BitVec 16) : portByte (b.getLsbD 0) = (b.extractLsb' 0 8 &&& 1) ||| 0x40 := by
  have hbyte : ∀ r : Byte, portByte (r.getLsbD 0) = (r &&& 1) ||| 0x40 := by decide
  rw [← hbyte, BitVec.getLsbD_extractLsb']
  rfl

end Sys2Proof.Machine

open Sys2Proof Sys2Proof.Machine

/-- Settles O25: a read shifts its register once, so `k` reads iterate the shift. -/
theorem shiftRegisterConverges : Obligations.ShiftRegisterConverges := by
  intro s k hm hs
  refine ⟨?_, fun hc => ?_⟩
  · rw [← shiftIn_iterate]
    exact runOps_port1_shifting hm hs k
  · rw [← shiftIn_iterate]
    exact runOps_port2_shifting hm hc hs k

/-- Settles O26: the writes of (a) leave the latch in Latching, the pulse of (b) in Shifting; (c) is (b) with two reads. -/
theorem latchReadoutProperties : Obligations.LatchReadoutProperties := by
  intro s hm
  refine ⟨fun vs m hne hvs => ?_, fun k => ?_, fun hsnap => ?_⟩
  · obtain ⟨u, rs, hwrites, hlen, hstrobe, husnap, hcfg⟩ := runOps_strobeHigh hm vs hvs (fun h => absurd h hne)
    obtain ⟨t, hreads⟩ := runOps_port1_latching (hcfg ▸ hm) hstrobe m
    rw [hcfg, husnap, portByte_snapshot] at hreads
    refine ⟨t, rs ++ _, ?_, List.drop_left' hlen⟩
    rw [runOps_append, hwrites, Option.bind_some, hreads]
    rfl
  · obtain ⟨t, hrun⟩ := runOps_pulse_reads hm k
    exact ⟨t, _, hrun, rfl⟩
  · obtain ⟨t, hrun⟩ := runOps_pulse_reads hm 2
    rw [hsnap] at hrun
    exact ⟨t, _, hrun, rfl⟩

/-- Settles O21: SNAP is that assignment by definition. -/
theorem snapReplacesSnapshot : Obligations.SnapReplacesSnapshot := fun _ _ => rfl
end

section
/-! SUPPORT. Which bytes operations return: a port read returns a port's byte, every other read its handler's answer
(41_input_latch.md R116). -/

namespace Sys2Proof.Machine

variable {s t : State} {i : Instr}

/-! Port reads. -/

theorem readPort1_portByte (s : State) : ∃ d, (readPort1 s).result = .byte (portByte d) := by
  cases hs : s.strobe
  · exact ⟨_, congrArg State.result (readPort1_shifting s hs)⟩
  · exact ⟨_, congrArg State.result (readPort1_latching s hs)⟩

theorem readPort2_portByte (hc : s.connected = false) : ∃ d, (readPort2 s).result = .byte (portByte d) := by
  cases hs : s.strobe
  · exact ⟨_, congrArg State.result (readPort2_shifting s hc hs)⟩
  · exact ⟨_, congrArg State.result (readPort2_latching s hc hs)⟩

/-- A read of port 1, or of port 2 with no light gun, returns a serial byte. -/
theorem exec_serialRead (hm : s.cfg.map.wf = true) (hi : port1Read s i ∨ port2Read s i)
    (hserial : port1Read s i ∨ s.connected = false) (h : exec i s = .next t) : ∃ d, t.result = .byte (portByte d) := by
  by_cases h1 : port1Read s i
  · cases (exec_port1Read hm h1).symm.trans h
    exact readPort1_portByte s
  · cases (exec_port2Read hm (hi.resolve_left h1)).symm.trans h
    exact readPort2_portByte (hserial.resolve_left h1)

theorem portByte_values (d : Bool) : portByte d = 0x40 ∨ portByte d = 0x41 := by
  cases d
  · exact .inl rfl
  · exact .inr rfl

/-! Every other operation. -/

/-- A byte `t` returns is the answer the collaborator of `s` gives, or 0x00. -/
def answersOnly (s t : State) : Prop := ∀ b, t.result = .byte b → b = Config.oracleByte s.draws ∨ b = 0x00

theorem answersOnly_of_none (h : t.result = .none) : answersOnly s t := fun _ hb => nomatch h.symm.trans hb

theorem query_answersOnly (c : Call) : answersOnly s (query c s) := by
  rintro _ ⟨⟩
  exact .inl rfl

theorem readUnmapped_answersOnly (a : Addr) : answersOnly s (readUnmapped a s) := by
  rintro _ ⟨⟩
  exact .inr rfl

theorem readLow_answersOnly (a : Addr) : answersOnly s (readLow a s) := by
  cases hmode : s.cfg.lowMode
  · rw [readLow_forward hmode]
    exact query_answersOnly _
  · rw [readLow_unmapped hmode]
    exact readUnmapped_answersOnly a

theorem busRead_answersOnly {a : Addr} (h1 : a ≠ s.cfg.map.port1Addr) (h2 : a ≠ s.cfg.map.port2Addr) :
    answersOnly s (busRead a s) := by
  unfold busRead
  split
  · exact readLow_answersOnly a
  · exact query_answersOnly _
  · rw [if_neg h1, if_neg h2]
    exact query_answersOnly _
  · exact query_answersOnly _
  · exact readUnmapped_answersOnly a

/-- An operation that is not the Bus's returns no byte. -/
theorem exec_answersOnly_of_not_busOp (hb : busOp i = false) (h : exec i s = .next t) : answersOnly s t := by
  cases exec_effect h with
  | forward _ _ hf _ => exact absurd (hb.symm.trans hf) Bool.false_ne_true
  | port1 _ hi | port2 _ hi | strobe _ _ hi => rcases hi with rfl | rfl <;> cases hb
  | fpub f F => unfold publish; split <;> exact answersOnly_of_none rfl
  | facq => unfold acquire; split <;> nofun
  | apush xs => exact answersOnly_of_none (pushSamples_result s xs)
  | apull n =>
    obtain ⟨l, hl, _⟩ := pullSamples_result s n
    intro b hbyte
    cases hl.symm.trans hbyte
  | irqv | avail => nofun
  | snap | gundn | gunup | guntg | irqa | irqk | reset | stop => exact answersOnly_of_none rfl

/-- Away from the ports nothing is added to a handler's answer (R116). -/
theorem exec_answersOnly (h1 : ¬port1Read s i) (h2 : ¬port2Read s i) (h : exec i s = .next t) : answersOnly s t := by
  cases hb : busOp i with
  | false => exact exec_answersOnly_of_not_busOp hb h
  | true =>
    obtain ⟨h1addr, h1row⟩ := not_or.1 h1
    obtain ⟨h2addr, h2row⟩ := not_or.1 h2
    cases i with
    | cpur a => cases h; exact busRead_answersOnly (h1addr ∘ congrArg _) (h2addr ∘ congrArg _)
    | cpurLow0000 off => cases h; exact readLow_answersOnly _
    | cpurPort1 => exact absurd rfl h1row
    | cpurPort2 => exact absurd rfl h2row
    | cpurUnmapped4018 off => cases h; exact readUnmapped_answersOnly _
    | ppur _ | cpurPpu2000 _ | cpurIo4000 _ | cpurIo4010 _ | cpurIo4014 _ | cpurCart4020 _ | cpurCart4040 _
    | cpurCart4080 _ | cpurCart4100 _ | cpurCart4200 _ | cpurCart4400 _ | cpurCart4800 _ | cpurCart5000 _
    | cpurCart6000 _ | cpurCart8000 _ => cases h; exact query_answersOnly _
    | cpuw a v => cases h; exact answersOnly_of_none (busWrite_result s a v)
    | cpuwLow0000 off v => cases h; exact answersOnly_of_none (writeLow_result s _ v)
    | cpuwStrobe v => cases h; exact answersOnly_of_none (writeStrobe_result s v)
    | ppuw _ _ | setnmi _ | ppucfg _ _ | cpuwPpu2000 _ _ | cpuwIo4000 _ _ | cpuwIo4010 _ _ | cpuwIo4014 _ _ | cpuwPort2 _
    | cpuwUnmapped4018 _ _ | cpuwCart4020 _ _ | cpuwCart4040 _ _ | cpuwCart4080 _ _ | cpuwCart4100 _ _
    | cpuwCart4200 _ _ | cpuwCart4400 _ _ | cpuwCart4800 _ _ | cpuwCart5000 _ _ | cpuwCart6000 _ _
    | cpuwCart8000 _ _ => cases h; exact answersOnly_of_none rfl
    | snap _ | gundn _ _ | gunup | guntg | irqa _ | irqk _ | irqv | fpub _ | facq | apush _ | apull _ | reset | stop
    | avail => cases hb

end Sys2Proof.Machine

open Sys2Proof Sys2Proof.Machine

/-- Settles O27: a serial read is 0x40 or 0x41, and the gun's byte has bit 6 set; no other operation goes through a port's
byte. -/
theorem openBusBitOnPortReads : Obligations.OpenBusBitOnPortReads := by
  intro s t i hm h
  refine ⟨fun hi => ?_, fun h1 h2 => exec_answersOnly h1 h2 h⟩
  by_cases hserial : port1Read s i ∨ s.connected = false
  · obtain ⟨d, hd⟩ := exec_serialRead hm hi hserial h
    exact ⟨portByte d, hd, portByte_getLsbD d 6 (by decide), fun _ => portByte_values d⟩
  · obtain ⟨h1, hc⟩ := not_or.1 hserial
    have hgun := exec_port2Read hm (hi.resolve_left h1)
    rw [readPort2_gun s (Bool.not_eq_false _ ▸ hc)] at hgun
    cases hgun.symm.trans h
    exact ⟨_, rfl, gunByte_getLsbD _ _ _ 6 (by decide), fun hp => absurd hp hserial⟩
end

section
/-! SUPPORT. The three events of the light gun (42_light_gun.md R130 to R132). -/

open Sys2Proof Sys2Proof.Machine

/-- Settles O29: the handler tests the row against 239, the last of the frame, so 240 is the first it refuses. -/
theorem gunDownStoresPosition : Obligations.GunDownStoresPosition := by
  intro s x y
  refine ⟨fun hin => ?_, fun hbelow => ?_⟩
  · exact if_pos hin
  · have hout : ¬ y.toNat ≤ 239 := by omega
    exact if_neg hout

/-- Settles O30: GUNUP's handler is that assignment; it has no branch and its one call is the hit test. -/
theorem gunUpTakesHitTest : Obligations.GunUpTakesHitTest := fun _ => rfl

/-- Settles O31: GUNTG's handler raises EC2 over the toggled and cleared registers, and `raise` only appends to the record of
conditions. -/
theorem gunToggleClearsRegisters : Obligations.GunToggleClearsRegisters := fun _ => rfl
end

section
/-! SUPPORT. One IRQA or IRQK on the mask, and the pending line (43_irq_line.md R145 to R147). -/

namespace Sys2Proof.Machine

/-- IRQA and IRQK refuse a source the mask has no bit for (30_encoding.md R73). -/
theorem exec_irqOp_refused {s : State} {o : Bool × Byte} (h : s.cfg.irqW ≤ o.2.toNat) :
    exec (irqOp o) s = .refused .illegalOperand := by
  obtain ⟨set, src⟩ := o
  cases set
  · exact if_neg h.not_gt
  · exact if_neg h.not_gt

/-- The line is pending where some bit of the mask is set (60_exceptions.md R206). -/
theorem irqLine_eq_true_iff (m : IrqMask) : irqLine m = true ↔ ∃ j, j < 256 ∧ m.getLsbD j = true := by
  rw [irqLine, decide_eq_true_eq]
  constructor
  · intro hne
    by_contra hclear
    exact hne (BitVec.eq_of_getLsbD_eq fun j hj => by simpa using fun hset => hclear ⟨j, hj, hset⟩)
  · rintro ⟨j, _, hset⟩ rfl
    simp at hset

end Sys2Proof.Machine

open Sys2Proof Sys2Proof.Machine

/-- Settles O36: on a legal source the new mask is `irqUpdate` of the old, which decides the source's bit alone. -/
theorem irqAssertAckOneBit : Obligations.IrqAssertAckOneBit := by
  intro s src
  refine ⟨fun hlegal => ⟨?_, ?_⟩, fun hnone => ⟨?_, ?_⟩⟩
  · refine ⟨_, exec_irqOp (o := (true, src)) hlegal, fun j hj => ?_⟩
    rw [irqUpdate_getLsbD _ _ hj]
    by_cases h : j = src.toNat <;> simp [h]
  · refine ⟨_, exec_irqOp (o := (false, src)) hlegal, fun j hj => ?_⟩
    rw [irqUpdate_getLsbD _ _ hj]
    by_cases h : j = src.toNat <;> simp [h]
  · exact exec_irqOp_refused (o := (true, src)) hnone
  · exact exec_irqOp_refused (o := (false, src)) hnone

/-- Settles O37: IRQV's handler only gives the mask as its result, and a mask is nonzero where a bit of it is set. -/
theorem irqValueIsWholeMask : Obligations.IrqValueIsWholeMask :=
  fun s => ⟨rfl, irqLine_eq_true_iff s.irq⟩
end

section
/-! SUPPORT. The steps of the frame protocol as equations, a run of them, and FPUB and FACQ as one step (44_frame_channel.md
R160 to R162). -/

namespace Sys2Proof.Machine

variable {s t : State} {F out : Frame} {n next : Nat}

/-! FPUB and FACQ as one step. -/

theorem exec_fpub {f : BitVec 24} (hF : frameOf s f = some F) (hn : s.fprod = none) :
    exec (.fpub f) s = .next (publish F s) := by
  simp [exec, execFpub, hF, hn]

theorem exec_facq (hn : s.fcons = none) : exec .facq s = .next (acquire s) := by
  simp [exec, execFacq, hn]

theorem publish_of_free (F : Frame) (hl : s.flock = .free) : publish F s = { s with slot := F, result := .none } :=
  if_pos hl

theorem publish_of_held (F : Frame) (hl : s.flock ≠ .free) :
    publish F s = { s with fprod := some ⟨F, .lock⟩, result := .none } :=
  if_neg hl

theorem acquire_of_free (hl : s.flock = .free) : acquire s = { s with result := .frame s.slot } := if_pos hl

theorem acquire_of_held (hl : s.flock ≠ .free) : acquire s = { s with fcons := some .lock, result := .none } := if_neg hl

/-! The protocol steps, stage by stage. -/

theorem advance_publishLock (n : Nat) (hp : s.fprod = some ⟨F, .lock⟩) : advance .frameProducer n s =
    if s.flock = .free then .next { s with flock := .heldP, fprod := some ⟨F, .copy 0⟩, result := .none }
    else .next { s with result := .none } := by
  simp only [advance, advancePublish, hp]
  split
  · rfl
  · simp [noResult, hp]

theorem advance_publishCopy (hp : s.fprod = some ⟨F, .copy next⟩) (hn : next + n < Config.frameWords) :
    advance .frameProducer n s = .next { s with
      slot := Memory.copy F s.slot next (next + n), fprod := some ⟨F, .copy (next + n)⟩, result := .none } := by
  simp [advance, advancePublish, hp, Nat.min_eq_left hn.le, Nat.not_le.2 hn]

theorem advance_publishCopyEnd (hp : s.fprod = some ⟨F, .copy next⟩) (hn : Config.frameWords ≤ next + n) :
    advance .frameProducer n s = .next { s with
      slot := Memory.copy F s.slot next Config.frameWords, fprod := some ⟨F, .release⟩, result := .none } := by
  simp [advance, advancePublish, hp, hn]

theorem advance_publishRelease (n : Nat) (hp : s.fprod = some ⟨F, .release⟩) :
    advance .frameProducer n s = .next { s with flock := .free, fprod := none, result := .none } := by
  simp only [advance, advancePublish, hp]

theorem advance_acquireLock (n : Nat) (hc : s.fcons = some .lock) : advance .frameConsumer n s =
    if s.flock = .free then .next { s with flock := .heldC, fcons := some (.copy [] 0), result := .none }
    else .next { s with result := .none } := by
  simp only [advance, advanceAcquire, hc]
  split
  · rfl
  · simp [noResult, hc]

theorem advance_acquireCopy (hc : s.fcons = some (.copy out next)) (hn : next + n < Config.frameWords) :
    advance .frameConsumer n s = .next { s with
      fcons := some (.copy (Memory.copy s.slot out next (next + n)) (next + n)), result := .none } := by
  simp [advance, advanceAcquire, hc, Nat.min_eq_left hn.le, Nat.not_le.2 hn]

theorem advance_acquireCopyEnd (hc : s.fcons = some (.copy out next)) (hn : Config.frameWords ≤ next + n) :
    advance .frameConsumer n s = .next { s with
      fcons := some (.release (Memory.copy s.slot out next Config.frameWords)), result := .none } := by
  simp [advance, advanceAcquire, hc, hn]

theorem advance_acquireRelease (n : Nat) (hc : s.fcons = some (.release out)) :
    advance .frameConsumer n s = .next { s with flock := .free, fcons := none, result := .frame out } := by
  simp only [advance, advanceAcquire, hc]

/-! Runs of protocol steps. -/

/-- A run whose first entry is a protocol step goes on from there. -/
theorem run_advance {side : Side} {rest : List Event} (k : Nat) (hin : s.inbox = .advance side n :: rest)
    (h : advance side n { s with inbox := rest } = .next t) :
    Host.Core.run Sys2Proof.core (k + 1) s = Host.Core.run Sys2Proof.core k t := by
  have hstep : Sys2Proof.core.step s = .next t := Eq.trans (by simp only [Sys2Proof.core, step, hin]) h
  simp only [Host.Core.run, hstep]

/-- The copy steps of a publication, whatever the lengths of their runs, copy the rest of the frame. -/
theorem run_publishCopies {rest : List Event} {ns : List Nat} (k : Nat)
    (hin : s.inbox = ns.map (.advance .frameProducer) ++ rest) (hp : s.fprod = some ⟨F, .copy next⟩)
    (hF : Memory.wf Config.frameWords F = true) (hslot : Memory.wf Config.frameWords s.slot = true)
    (hall : Config.frameWords ≤ next + ns.sum) (hlast : next + ns.dropLast.sum < Config.frameWords) :
    Host.Core.run Sys2Proof.core (ns.length + k) s = Host.Core.run Sys2Proof.core k { s with
      slot := Memory.copy F s.slot next Config.frameWords
      fprod := some ⟨F, .release⟩
      inbox := rest
      result := .none } := by
  induction ns generalizing s next with
  | nil => exact absurd (hall.trans_lt hlast) (lt_irrefl _)
  | cons n ns ih =>
    rw [List.length_cons, Nat.add_right_comm]
    cases ns with
    | nil => exact (run_advance _ hin (advance_publishCopyEnd hp (by simpa using hall))).trans (by simp)
    | cons m ms =>
      have hn : next + n < Config.frameWords := by simp at hlast; omega
      rw [run_advance _ hin (advance_publishCopy hp hn)]
      refine Eq.trans (ih rfl rfl (Memory.wf_copy hF hslot) (by simpa [Nat.add_assoc] using hall)
        (by simpa [Nat.add_assoc] using hlast)) ?_
      rw [Memory.copy_copy hF hslot (Nat.le_add_right _ _) hn.le]

/-- The copy steps of an acquisition likewise. -/
theorem run_acquireCopies {rest : List Event} {ns : List Nat} (k : Nat)
    (hin : s.inbox = ns.map (.advance .frameConsumer) ++ rest) (hc : s.fcons = some (.copy out next))
    (hout : Memory.wf Config.frameWords out = true) (hslot : Memory.wf Config.frameWords s.slot = true)
    (hall : Config.frameWords ≤ next + ns.sum) (hlast : next + ns.dropLast.sum < Config.frameWords) :
    Host.Core.run Sys2Proof.core (ns.length + k) s = Host.Core.run Sys2Proof.core k { s with
      fcons := some (.release (Memory.copy s.slot out next Config.frameWords)), inbox := rest, result := .none } := by
  induction ns generalizing s out next with
  | nil => exact absurd (hall.trans_lt hlast) (lt_irrefl _)
  | cons n ns ih =>
    rw [List.length_cons, Nat.add_right_comm]
    cases ns with
    | nil => exact (run_advance _ hin (advance_acquireCopyEnd hc (by simpa using hall))).trans (by simp)
    | cons m ms =>
      have hn : next + n < Config.frameWords := by simp at hlast; omega
      rw [run_advance _ hin (advance_acquireCopy hc hn)]
      refine Eq.trans (ih rfl rfl (Memory.wf_copy hslot hout) hslot (by simpa [Nat.add_assoc] using hall)
        (by simpa [Nat.add_assoc] using hlast)) ?_
      rw [Memory.copy_copy hslot hout (Nat.le_add_right _ _) hn.le]

/-- A whole publication, step by step: the lock taken, every run copied, the lock released. -/
theorem run_publication {ns : List Nat} (hin : s.inbox =
      .advance .frameProducer 0 :: ns.map (.advance .frameProducer) ++ [.advance .frameProducer 0])
    (hp : s.fprod = some ⟨F, .lock⟩) (hl : s.flock = .free) (hF : Memory.wf Config.frameWords F = true)
    (hslot : Memory.wf Config.frameWords s.slot = true) (hall : Config.frameWords ≤ ns.sum)
    (hlast : ns.dropLast.sum < Config.frameWords) :
    Host.Core.run Sys2Proof.core (ns.length + 2) s =
      .next { s with slot := F, fprod := none, inbox := [], result := .none } := by
  rw [run_advance _ hin (Eq.trans (advance_publishLock 0 hp) (if_pos hl))]
  refine Eq.trans (run_publishCopies 1 rfl rfl hF hslot (by simpa using hall) (by simpa using hlast)) ?_
  rw [run_advance 0 rfl (advance_publishRelease 0 rfl)]
  simp only [Host.Core.run, Memory.copy_all hF hslot]
  rw [← hl]

/-- A whole acquisition, step by step. -/
theorem run_acquisition {ns : List Nat} (hin : s.inbox =
      .advance .frameConsumer 0 :: ns.map (.advance .frameConsumer) ++ [.advance .frameConsumer 0])
    (hc : s.fcons = some .lock) (hl : s.flock = .free) (hslot : Memory.wf Config.frameWords s.slot = true)
    (hall : Config.frameWords ≤ ns.sum) (hlast : ns.dropLast.sum < Config.frameWords) :
    Host.Core.run Sys2Proof.core (ns.length + 2) s =
      .next { s with fcons := none, inbox := [], result := .frame s.slot } := by
  rw [run_advance _ hin (Eq.trans (advance_acquireLock 0 hc) (if_pos hl))]
  refine Eq.trans (run_acquireCopies 1 rfl rfl (Memory.wf_nil _) hslot (by simpa using hall) (by simpa using hlast)) ?_
  rw [run_advance 0 rfl (advance_acquireRelease 0 rfl)]
  simp only [Host.Core.run, Memory.copy_all hslot (Memory.wf_nil _)]
  rw [← hl]

end Sys2Proof.Machine

open Sys2Proof Sys2Proof.Machine

/-- Settles O39: with the lock free each is its one-step branch, which touches neither the table nor anything else. -/
theorem publishAndAcquireWhole : Obligations.PublishAndAcquireWhole := by
  refine ⟨fun s f F hF hn hl => ?_, fun s hn hl => ?_⟩
  · rw [exec_fpub hF hn, publish_of_free F hl]
  · rw [exec_facq hn, acquire_of_free hl]

/-- Settles O42: runs copied in index order are one copy, and a copy of all pixels between canonical memories is its
source. -/
theorem frameProtocolRefinesAtomic : Obligations.FrameProtocolRefinesAtomic := by
  rintro s ns ⟨hslot, _, _, hfprod, _⟩ hl hall hlast
  refine ⟨fun F hp => ?_, fun hc => run_acquisition rfl hc hl hslot hall hlast⟩
  rw [hp] at hfprod
  exact run_publication rfl hp hl hfprod hslot hall hlast
end

section
/-! SUPPORT. The end of an operation in progress under weak fairness (44_frame_channel.md R164, 45_audio_ring.md R181): no step
but its own moves it on, and each of those brings it nearer its end. -/

namespace Sys2Proof.Machine

variable {s t : State} {e side : Side} {n : Nat} {ev : Event} {i : Instr} {agent : Agent} {grain : Grain} {what : Presented}
  {rest : List Event}

/-- The end has an operation in progress that never waits: one of the frame protocol holds the lock. -/
def underway (s : State) : Side → Bool
  | .frameProducer => publishHolds s.fprod
  | .frameConsumer => acquireHolds s.fcons
  | .audioProducer => s.aprod.isSome
  | .audioConsumer => s.acons.isSome

/-- What the end of such an operation leaves: the lock free, or no operation in progress. -/
def completed (s : State) : Side → Prop
  | .frameProducer | .frameConsumer => s.flock = .free
  | .audioProducer => s.aprod = none
  | .audioConsumer => s.acons = none

/-- A bound on the steps that move the operation on before its last one.  One that waits or is at its last step has none. -/
def stepsLeft (s : State) : Side → Nat
  | .frameProducer =>
    match s.fprod with
    | some ⟨_, .copy next⟩ => Config.frameWords - next + 1
    | some ⟨_, .lock⟩ | some ⟨_, .release⟩ | none => 0
  | .frameConsumer =>
    match s.fcons with
    | some (.copy _ next) => Config.frameWords - next + 1
    | some .lock | some (.release _) | none => 0
  | .audioProducer =>
    match s.aprod with
    | some ⟨xs, .claim⟩ => xs.length + 2
    | some ⟨_, .store _ k next⟩ => k - next + 1
    | some ⟨_, .publish _ _⟩ | none => 0
  | .audioConsumer =>
    match s.acons with
    | some ⟨count, .claim⟩ => count + 2
    | some ⟨count, .copy _ _ out⟩ => count - out.length + 1
    | some ⟨_, .free _ _ _⟩ | none => 0

theorem sideEnabled_of_underway (h : underway s e = true) : sideEnabled s e = true := by
  cases e with
  | frameProducer =>
    change publishHolds s.fprod = true at h
    rcases hp : s.fprod with _ | ⟨F, _ | next | _⟩ <;> simp_all [sideEnabled, publishHolds]
  | frameConsumer =>
    change acquireHolds s.fcons = true at h
    rcases hc : s.fcons with _ | _ | ⟨out, next⟩ | out <;> simp_all [sideEnabled, acquireHolds]
  | audioProducer | audioConsumer => exact h

theorem threadBusy_of_underway (h : underway s e = true) : threadBusy s (threadOfSide e) = true := by
  cases e with
  | frameProducer => cases hp : s.fprod <;> simp_all [underway, publishHolds, threadOfSide, threadBusy]
  | frameConsumer => cases hc : s.fcons <;> simp_all [underway, acquireHolds, threadOfSide, threadBusy]
  | audioProducer => simp_all [underway, threadOfSide, threadBusy]
  | audioConsumer => exact h

/-! The end's own steps. -/

/-- A copy of no words. -/
theorem Memory.copy_empty {w size lo : Nat} {src dst : Memory w} (hs : Memory.wf size src = true)
    (hd : Memory.wf size dst = true) : Memory.copy src dst lo lo = dst :=
  Memory.ext (Memory.wf_copy hs hd) hd fun i => by rw [Memory.read_copy, if_neg (by omega)]

/-- A step that moves the operation on ends it or brings it nearer its end. -/
theorem stepsLeft_lt_of_movesOn (hmem : memoriesOk s) (hu : underway s side = true) (h : advance side n s = .next t)
    (hm : movesOn s t side) : completed t side ∨ underway t side = true ∧ stepsLeft t side < stepsLeft s side := by
  cases advance_effect h with
  | idle _ hidle => exact absurd (sideEnabled_of_underway hu) (Bool.eq_false_iff.1 hidle)
  | publishLock F hp _ => simp [underway, hp, publishHolds] at hu
  | publishCopy F next hp hn =>
    have hne : n ≠ 0 := by rintro rfl; exact hm hp.symm
    exact .inr ⟨rfl, by simp only [stepsLeft, hp]; omega⟩
  | publishCopyEnd F next hp _ => exact .inr ⟨rfl, by simp [stepsLeft, hp]⟩
  | publishRelease F _ => exact .inl rfl
  | acquireLock hc _ => simp [underway, hc, acquireHolds] at hu
  | acquireCopy out next hc hn =>
    obtain ⟨hslot, _, _, _, hout⟩ := hmem
    rw [hc] at hout
    have hne : n ≠ 0 := by
      rintro rfl
      exact hm (by rw [hc, Nat.add_zero, Memory.copy_empty hslot hout])
    exact .inr ⟨rfl, by simp only [stepsLeft, hc]; omega⟩
  | acquireCopyEnd out next hc _ => exact .inr ⟨rfl, by simp [stepsLeft, hc]⟩
  | acquireRelease out _ => exact .inl rfl
  | pushClaim xs k hp hk =>
    have hle : k ≤ xs.length := hk ▸ Nat.min_le_left _ _
    exact .inr ⟨by simp [underway], by simp only [stepsLeft, overwriteOldest_aprod, hp]; omega⟩
  | pushStore xs w k next hp hn =>
    have hne : n ≠ 0 := by rintro rfl; exact hm hp.symm
    exact .inr ⟨rfl, by simp only [stepsLeft, hp]; omega⟩
  | pushStoreEnd xs w k next hp _ => exact .inr ⟨rfl, by simp [stepsLeft, hp]⟩
  | pushPublish xs w k hp =>
    obtain ⟨b, d, r, hpub, _⟩ := publishSamples_changes w k xs.length { s with aprod := none }
    rw [hpub]
    exact .inl rfl
  | pullClaim count hc _ | pullClaimShort count hc _ => exact .inr ⟨rfl, by simp [stepsLeft, hc]⟩
  | pullCopy count r ok out out' stage hc hout hstage =>
    refine .inr ⟨rfl, ?_⟩
    by_cases hend : count - out.length ≤ n
    · rw [if_pos hend] at hstage
      subst hstage
      simp [stepsLeft, hc]
    · rw [if_neg hend] at hstage
      subst hstage
      have hne : n ≠ 0 := by
        rintro rfl
        exact hm (by rw [hc, hout]; cases ok <;> simp [loadRun, silence])
      have hlen : out'.length = out.length + n := by
        rw [hout]; cases ok <;> simp [loadRun, silence] <;> omega
      simp only [stepsLeft, hc]
      omega
  | pullFree count r ok out _ => exact .inl rfl

theorem underway_of_not_movesOn (hm : ¬movesOn s t e) : underway t e = underway s e := by
  cases e <;> simp only [underway, not_not.1 hm]

theorem stepsLeft_of_not_movesOn (hm : ¬movesOn s t e) : stepsLeft t e = stepsLeft s e := by
  cases e <;> simp only [stepsLeft, not_not.1 hm]

/-! Nothing else moves it on. -/

theorem not_movesOn_of_sameChannels (hc : SameChannels s t) (e : Side) : ¬movesOn s t e := by
  cases e with
  | frameProducer => exact not_not.2 hc.fprod
  | frameConsumer => exact not_not.2 hc.fcons
  | audioProducer => exact not_not.2 hc.aprod
  | audioConsumer => exact not_not.2 hc.acons

/-! A step of one end leaves the operation of the other end of its channel alone. -/

theorem advance_frameProducer_fcons (h : advance .frameProducer n s = .next t) : t.fcons = s.fcons := by
  cases advance_effect h <;> rfl

theorem advance_frameConsumer_fprod (h : advance .frameConsumer n s = .next t) : t.fprod = s.fprod := by
  cases advance_effect h <;> rfl

theorem advance_audioProducer_acons (h : advance .audioProducer n s = .next t) : t.acons = s.acons := by
  cases advance_effect h with
  | pushClaim => simp
  | pushPublish xs w k _ =>
    obtain ⟨b, d, r, hpub, _⟩ := publishSamples_changes w k xs.length { s with aprod := none }
    rw [hpub]
  | idle | pushStore | pushStoreEnd => rfl

theorem advance_audioConsumer_aprod (h : advance .audioConsumer n s = .next t) : t.aprod = s.aprod := by
  cases advance_effect h <;> rfl

theorem side_eq_of_movesOn (h : advance side n s = .next t) (hm : movesOn s t e) : side = e := by
  cases side with
  | frameProducer =>
    obtain ⟨_, _, _, _, haprod, hacons⟩ := advance_frame_ring_fields (.inl rfl) h
    cases e with
    | frameProducer => rfl
    | frameConsumer => exact absurd (advance_frameProducer_fcons h) hm
    | audioProducer => exact absurd haprod hm
    | audioConsumer => exact absurd hacons hm
  | frameConsumer =>
    obtain ⟨_, _, _, _, haprod, hacons⟩ := advance_frame_ring_fields (.inr rfl) h
    cases e with
    | frameProducer => exact absurd (advance_frameConsumer_fprod h) hm
    | frameConsumer => rfl
    | audioProducer => exact absurd haprod hm
    | audioConsumer => exact absurd hacons hm
  | audioProducer =>
    obtain ⟨_, _, hfprod, hfcons⟩ := advance_audio_frame_fields (.inl rfl) h
    cases e with
    | frameProducer => exact absurd hfprod hm
    | frameConsumer => exact absurd hfcons hm
    | audioProducer => rfl
    | audioConsumer => exact absurd (advance_audioProducer_acons h) hm
  | audioConsumer =>
    obtain ⟨_, _, hfprod, hfcons⟩ := advance_audio_frame_fields (.inr rfl) h
    cases e with
    | frameProducer => exact absurd hfprod hm
    | frameConsumer => exact absurd hfcons hm
    | audioProducer => exact absurd (advance_audioConsumer_aprod h) hm
    | audioConsumer => rfl

/-- An operation of the machine but RESET moves on none in progress: FPUB and FACQ begin where their end runs none. -/
theorem exec_not_movesOn (hu : underway s e = true) (hreset : i ≠ .reset) (h : exec i s = .next t) : ¬movesOn s t e := by
  obtain ⟨hfprod, hfcons, haprod, hacons⟩ := exec_in_progress hreset h
  cases e with
  | frameProducer =>
    rcases hfprod with hfprod | ⟨f, rfl⟩
    · exact not_not.2 hfprod
    · obtain ⟨_, _, hn, _⟩ := exec_fpub_next h
      simp [underway, hn, publishHolds] at hu
  | frameConsumer =>
    rcases hfcons with hfcons | rfl
    · exact not_not.2 hfcons
    · obtain ⟨hn, _⟩ := exec_facq_next h
      simp [underway, hn, acquireHolds] at hu
  | audioProducer => exact not_not.2 haprod
  | audioConsumer => exact not_not.2 hacons

/-- Nor does beginning one. -/
theorem begins_not_movesOn (hu : underway s e = true) (h : begins i s = some (.next t)) : ¬movesOn s t e := by
  rcases begins_effect h with ⟨f, F, _, _, hn, rfl⟩ | ⟨_, hn, rfl⟩ | ⟨xs, _, hn, rfl⟩ | ⟨n, _, hn, rfl⟩
  · cases e with
    | frameProducer => simp [underway, hn, publishHolds] at hu
    | frameConsumer | audioProducer | audioConsumer => exact not_not.2 rfl
  · cases e with
    | frameConsumer => simp [underway, hn, acquireHolds] at hu
    | frameProducer | audioProducer | audioConsumer => exact not_not.2 rfl
  · cases e with
    | audioProducer => simp [underway, hn] at hu
    | frameProducer | frameConsumer | audioConsumer => exact not_not.2 rfl
  · cases e with
    | audioConsumer => simp [underway, hn] at hu
    | frameProducer | frameConsumer | audioProducer => exact not_not.2 rfl

theorem started_of_underway (hst : startedOk s) (hu : underway s e = true) : s.started = true := by
  by_contra hs
  obtain ⟨hfprod, hfcons, haprod, hacons, _, _⟩ := hst (Bool.eq_false_iff.2 hs)
  cases e <;> simp [underway, publishHolds, acquireHolds, hfprod, hfcons, haprod, hacons] at hu

/-- An operation underway is moved on by its own protocol step alone; RESET comes before any begins. -/
theorem step_movesOn (hst : startedOk s) (hu : underway s e = true) (h : step s = .next t) (hm : movesOn s t e) :
    ∃ n rest, s.inbox = .advance e n :: rest ∧ advance e n { s with inbox := rest } = .next t := by
  rcases step_cases h with ⟨_, rfl⟩ | ⟨side, n, rest, hin, ha⟩ | ⟨loop, rest, _, _, _, rfl⟩ |
    ⟨_, _, _, rest, i, _, hi, ⟨he, _⟩ | ⟨_, hb⟩⟩
  · cases e <;> exact absurd rfl hm
  · obtain rfl := side_eq_of_movesOn ha hm
    exact ⟨n, rest, hin, ha⟩
  · exact absurd hm (not_movesOn_of_sameChannels (pollRunning_sameChannels loop (takeEntry rest s)) e)
  · have hreset : i ≠ .reset := by
      rintro rfl
      obtain ⟨_, _, _, _, hfirst⟩ := admitted_ok hi
      exact Bool.eq_false_iff.1 (hfirst rfl) (started_of_underway hst hu)
    exact absurd hm (exec_not_movesOn (s := takeEntry rest s) hu hreset he)
  · exact absurd hm (begins_not_movesOn (s := takeEntry rest s) hu hb)

/-! While the operation is not moved on, the thread of its end takes no step. -/

/-- The state with another inbox. -/
def withInbox (l : List Event) (s : State) : State := { s with inbox := l }

theorem advancePublish_withInbox (l : List Event) (n : Nat) (s : State) :
    advancePublish n (withInbox l s) = withInbox l (advancePublish n s) := by
  rcases hp : s.fprod with _ | ⟨F, _ | next | _⟩
  · simp [advancePublish, withInbox, noResult, hp]
  · by_cases hl : s.flock = .free <;> simp [advancePublish, withInbox, noResult, hp, hl]
  · simp [advancePublish, withInbox, hp]
  · simp [advancePublish, withInbox, hp]

theorem advanceAcquire_withInbox (l : List Event) (n : Nat) (s : State) :
    advanceAcquire n (withInbox l s) = withInbox l (advanceAcquire n s) := by
  rcases hc : s.fcons with _ | _ | ⟨out, next⟩ | out
  · simp [advanceAcquire, withInbox, noResult, hc]
  · by_cases hl : s.flock = .free <;> simp [advanceAcquire, withInbox, noResult, hc, hl]
  · simp [advanceAcquire, withInbox, hc]
  · simp [advanceAcquire, withInbox, hc]

theorem overwriteOldest_withInbox (l : List Event) (k n : Nat) (s : State) :
    overwriteOldest k n (withInbox l s) = withInbox l (overwriteOldest k n s) := by
  unfold overwriteOldest
  rw [apply_ite (withInbox l)]
  rfl

theorem publishSamples_withInbox (l : List Event) (w k n : Nat) (s : State) :
    publishSamples w k n (withInbox l s) = withInbox l (publishSamples w k n s) := by
  have hover := overwriteOldest_withInbox l k n
    { s with wr := advanceCursor s.cfg w k, overrunDropped := s.overrunDropped + (n - k), result := .none }
  simp only [publishSamples, apply_ite (withInbox l)]
  rw [show withInbox l (raise _ _) = raise _ (withInbox l _) from rfl, ← hover]
  rfl

theorem advancePush_withInbox (l : List Event) (n : Nat) (s : State) :
    advancePush n (withInbox l s) = withInbox l (advancePush n s) := by
  have hin : (withInbox l s).aprod = s.aprod := rfl
  rcases hp : s.aprod with _ | ⟨xs, _ | ⟨w, k, next⟩ | ⟨w, k⟩⟩ <;> simp only [advancePush, hin, hp]
  · rfl
  · exact overwriteOldest_withInbox l _ _ { s with aprod := _, result := .none }
  · rfl
  · exact publishSamples_withInbox l w k _ { s with aprod := none }

theorem advancePull_withInbox (l : List Event) (n : Nat) (s : State) :
    advancePull n (withInbox l s) = withInbox l (advancePull n s) := by
  rcases hc : s.acons with _ | ⟨count, _ | ⟨r, ok, out⟩ | ⟨r, ok, out⟩⟩
  · simp [advancePull, withInbox, noResult, hc]
  · by_cases hn : count ≤ availOf s.cfg s.wr s.rd <;> simp [advancePull, withInbox, raise, hc, hn]
  · simp [advancePull, withInbox, hc]
  · simp [advancePull, withInbox, hc]

/-- Protocol steps do not read the inbox. -/
theorem advance_withInbox (l : List Event) (h : advance side n s = .next t) :
    advance side n (withInbox l s) = .next (withInbox l t) := by
  cases side with
  | frameProducer => cases h; exact congrArg _ (advancePublish_withInbox l n s)
  | frameConsumer => cases h; exact congrArg _ (advanceAcquire_withInbox l n s)
  | audioProducer => cases h; exact congrArg _ (advancePush_withInbox l n s)
  | audioConsumer => cases h; exact congrArg _ (advancePull_withInbox l n s)

theorem threadBusy_of_step_present (hin : s.inbox = .present agent grain what :: rest) (h : step s = .next t) :
    threadBusy s (threadOf agent) = false := by
  cases hi : admitted s agent what with
  | error r => exact nomatch (step_of_not_admitted hin hi).symm.trans h
  | ok i =>
    obtain ⟨_, _, _, hb, _⟩ := admitted_ok hi
    exact hb

theorem threadBusy_of_step_poll {loop : Loop} (hin : s.inbox = .poll loop :: rest) (h : step s = .next t) :
    threadBusy s (threadOfLoop loop) = false := by
  obtain ⟨_, hb, _⟩ := poll_next ((step_of_poll hin).symm.trans h)
  simpa using hb

/-- The emulation thread runs one operation at a time (20_memory.md R54), so its steps are those of the end underway. -/
theorem side_eq_of_thread_eq (hsingle : emulationSingle s) (hu : underway s e = true)
    (hth : threadOfSide side = threadOfSide e) (h : advance side n s = .next t) (hm : movesOn s t side) : side = e := by
  obtain ⟨hfprod, _, haprod, _⟩ := advance_begins_nothing h
  have hidle := emulationSingle_iff.1 hsingle
  cases e with
  | frameProducer =>
    cases side with
    | frameProducer => rfl
    | audioProducer =>
      have hn : s.aprod = none := hidle.resolve_left fun hn => by simp [underway, hn, publishHolds] at hu
      exact absurd ((haprod hn).trans hn.symm) hm
    | frameConsumer | audioConsumer => cases hth
  | audioProducer =>
    cases side with
    | audioProducer => rfl
    | frameProducer =>
      have hn : s.fprod = none := hidle.resolve_right fun hn => by simp [underway, hn] at hu
      exact absurd ((hfprod hn).trans hn.symm) hm
    | frameConsumer | audioConsumer => cases hth
  | frameConsumer => cases side <;> cases hth; rfl
  | audioConsumer => cases side <;> cases hth; rfl

theorem movesOn_of_stepOf (hsingle : emulationSingle s) (hu : underway s e = true)
    (h : step { s with inbox := [ev] } = .next t) (hstep : stepOf s (threadOfSide e) ev) : movesOn s t e := by
  have hbusy := threadBusy_of_underway hu
  cases ev with
  | present agent grain what =>
    have hth : threadOf agent = threadOfSide e := hstep
    exact absurd (hth ▸ hbusy) (Bool.eq_false_iff.1 (threadBusy_of_step_present rfl h))
  | poll loop =>
    have hth : threadOfLoop loop = threadOfSide e := hstep
    exact absurd (hth ▸ hbusy) (Bool.eq_false_iff.1 (threadBusy_of_step_poll rfl h))
  | advance side n =>
    obtain ⟨hth, u, ha, hm⟩ := hstep
    obtain rfl := side_eq_of_thread_eq hsingle hu hth ha hm
    cases (advance_withInbox [] ha).symm.trans h
    cases side <;> exact hm

/-! Weakly fair runs. -/

theorem safe_of_run {schedule : Nat → Event} {states : Nat → State} (hsafe : safe (states 0))
    (hrun : runsUnder schedule states) (k : Nat) : safe (states k) := by
  induction k with
  | zero => exact hsafe
  | succ k ih => exact ringCursorsWithinCapacity.2 { states k with inbox := [schedule k] } _ ih (hrun k)

/-- In a weakly fair run an operation underway is completed. -/
theorem eventually_completed {schedule : Nat → Event} {states : Nat → State} (hsafe : safe (states 0))
    (hrun : runsUnder schedule states) (hfair : weaklyFair schedule states) {k : Nat}
    (hu : underway (states k) e = true) : ∃ j, k ≤ j ∧ completed (states j) e := by
  refine weaklyFair_eventually (P := fun s => underway s e = true) (Q := fun s => completed s e)
    (m := fun s => stepsLeft s e) hfair (fun s hs => .inl ⟨e, rfl, sideEnabled_of_underway hs⟩) (fun j hj hopen => ?_) k hu
  obtain ⟨_, _, _, hmem, _, _, hsingle, hstarted, _⟩ := safe_of_run hsafe hrun j
  by_cases hm : movesOn (states j) (states (j + 1)) e
  · obtain ⟨n, rest, hin, ha⟩ := step_movesOn (s := { states j with inbox := [schedule j] }) hstarted hj (hrun j)
      (by cases e <;> exact hm)
    obtain ⟨hgo, hlt⟩ := (stepsLeft_lt_of_movesOn (s := { states j with inbox := rest }) hmem hj ha
      (by cases e <;> exact hm)).resolve_left hopen
    exact ⟨hgo, hlt.le, fun _ => hlt⟩
  · have heq := stepsLeft_of_not_movesOn hm
    exact ⟨(underway_of_not_movesOn hm).trans hj, heq.le,
      fun hstep => absurd (movesOn_of_stepOf hsingle hj (hrun j) hstep) hm⟩

/-- A held lock is held by an operation underway, so the lock is free at some later time (44_frame_channel.md R164). -/
theorem eventually_lock_free {schedule : Nat → Event} {states : Nat → State} (hsafe : safe (states 0))
    (hrun : runsUnder schedule states) (hfair : weaklyFair schedule states) (k : Nat) :
    ∃ j, k ≤ j ∧ (states j).flock = .free := by
  obtain ⟨_, _, _, _, ⟨hlock, _, _⟩, _⟩ := safe_of_run hsafe hrun k
  cases hl : (states k).flock with
  | free => exact ⟨k, le_rfl, hl⟩
  | heldP => exact eventually_completed (e := .frameProducer) hsafe hrun hfair (hlock.1.1 hl)
  | heldC => exact eventually_completed (e := .frameConsumer) hsafe hrun hfair (hlock.2.1 hl)

/-- An operation of the ring never waits, so each end is idle at some later time (45_audio_ring.md R181). -/
theorem eventually_ring_idle {schedule : Nat → Event} {states : Nat → State} (hsafe : safe (states 0))
    (hrun : runsUnder schedule states) (hfair : weaklyFair schedule states) (k : Nat) :
    (∃ j, k ≤ j ∧ (states j).aprod = none) ∧ ∃ j, k ≤ j ∧ (states j).acons = none := by
  constructor
  · cases hp : (states k).aprod with
    | none => exact ⟨k, le_rfl, hp⟩
    | some push => exact eventually_completed (e := .audioProducer) hsafe hrun hfair (by simp [underway, hp])
  · cases hc : (states k).acons with
    | none => exact ⟨k, le_rfl, hc⟩
    | some pull => exact eventually_completed (e := .audioConsumer) hsafe hrun hfair (by simp [underway, hc])

end Sys2Proof.Machine

open Sys2Proof Sys2Proof.Machine

/-- Settles O40: the first six clauses are the steps' own equations; progress is that of an operation underway, and a held
lock means one. -/
theorem heldLockMakesWait : Obligations.HeldLockMakesWait := by
  refine ⟨fun s f F hF hn hl => ?_, fun s hn hl => ?_, fun s F n hp => advance_publishLock n hp,
    fun s n hc => advance_acquireLock n hc, fun s F n hp => advance_publishRelease n hp,
    fun s out n hc => advance_acquireRelease n hc, fun schedule states hsafe hrun hfair k => ?_⟩
  · rw [exec_fpub hF hn, publish_of_held F hl]
  · rw [exec_facq hn, acquire_of_held hl]
  · exact ⟨eventually_lock_free hsafe hrun hfair k, eventually_ring_idle hsafe hrun hfair k⟩
end

section
/-! SUPPORT. APUSH, APULL and AVAIL as one step (45_audio_ring.md R175 to R177): the state each leaves, field by field, and
the slots a push writes. -/

namespace Sys2Proof.Machine

variable {s : State} {m : Memory 16} {xs : List Sample} {cap c k n w i : Nat}

/-- The end of a push, under either policy (R175, 93_implementation_defined.md U1). -/
theorem publishSamples_eq (w k n : Nat) (s : State) : publishSamples w k n s = { s with
    buf := if k < n ∧ s.cfg.overrun = .overwriteOldest then freeRing s.cfg.ringCap s.draws else s.buf
    wr := advanceCursor s.cfg w k
    overrunDropped := s.overrunDropped + (n - k)
    raised := if k < n then s.raised ++ [.audioOverrun (n - k)] else s.raised
    result := .none
    draws := if k < n ∧ s.cfg.overrun = .overwriteOldest then s.draws + 1 else s.draws } := by
  unfold publishSamples overwriteOldest
  by_cases hk : k < n
  · by_cases ho : s.cfg.overrun = .overwriteOldest <;> simp [hk, ho, raise]
  · simp [hk]

/-- Under drop-newest, and where every sample fits, the contents stay. -/
theorem publishSamples_of_kept (h : s.cfg.overrun = .dropNewest ∨ k = n) : publishSamples w k n s = { s with
    wr := advanceCursor s.cfg w k
    overrunDropped := s.overrunDropped + (n - k)
    raised := if k < n then s.raised ++ [.audioOverrun (n - k)] else s.raised
    result := .none } := by
  have hkept : ¬(k < n ∧ s.cfg.overrun = .overwriteOldest) := by
    rintro ⟨hlt, ho⟩
    rcases h with h | rfl
    · exact nomatch h.symm.trans ho
    · exact lt_irrefl _ hlt
  rw [publishSamples_eq, if_neg hkept, if_neg hkept]

/-- Under OverwriteOldest a push that overflows leaves free samples. -/
theorem publishSamples_of_overwritten (hk : k < n) (ho : s.cfg.overrun = .overwriteOldest) :
    publishSamples w k n s = { s with
      buf := freeRing s.cfg.ringCap s.draws
      wr := advanceCursor s.cfg w k
      overrunDropped := s.overrunDropped + (n - k)
      raised := s.raised ++ [.audioOverrun (n - k)]
      result := .none
      draws := s.draws + 1 } := by
  simp only [publishSamples_eq, hk, ho, and_self, if_true]

theorem exec_apush (xs : List Sample) (hn : s.aprod = none) : exec (.apush xs) s = .next (pushSamples xs s) := by
  simp [exec, execApush, hn]

/-- APUSH as one step, where the contents stay (R175). -/
theorem pushSamples_of_kept (hk : acceptOf s.cfg s.wr s.rd xs.length = k)
    (h : s.cfg.overrun = .dropNewest ∨ k = xs.length) : pushSamples xs s = { s with
      buf := storeRun s.cfg.ringCap s.buf s.wr (xs.take k)
      wr := advanceCursor s.cfg s.wr k
      overrunDropped := s.overrunDropped + (xs.length - k)
      raised := if k < xs.length then s.raised ++ [.audioOverrun (xs.length - k)] else s.raised
      result := .none } := by
  rw [pushSamples, hk]
  exact publishSamples_of_kept h

theorem exec_apull (n : Nat) (hn : s.acons = none) : exec (.apull n) s = .next (pullSamples n s) := by
  simp [exec, execApull, hn]

theorem pullSamples_of_available (h : n ≤ availNow s) : pullSamples n s = { s with
    rd := advanceCursor s.cfg s.rd n, result := .samples (loadRun s.cfg.ringCap s.buf s.rd n) } :=
  if_pos h

theorem pullSamples_of_short (h : availNow s < n) : pullSamples n s = { s with
    raised := s.raised ++ [.audioUnderrun n (availNow s)], result := .samples (silence n) } :=
  if_neg (Nat.not_le.2 h)

/-- The slots of the first `k` samples, stored as a run, hold them. -/
theorem read_storeRun_take (hm : Memory.wf cap m = true) (hk : k ≤ xs.length) (hcap : k ≤ cap) (hi : i < k) :
    Memory.read (storeRun cap m c (xs.take k)) ((c + i) % cap) = xs.getD i 0 := by
  have hlen : (xs.take k).length = k := List.length_take_of_le hk
  rw [read_storeRun hm (hlen.le.trans hcap) (hi.trans_eq hlen.symm)]
  simp [List.getD, List.getElem?_take_of_lt hi]

/-- The samples available are the difference of the cursors modulo the modulus (R177, R184). -/
theorem availOf_lt_modulus (p : Params) (wr rd : Nat) : availOf p wr rd < p.modulus := by
  have hpos : (0 : Int) < p.modulus := by exact_mod_cast Nat.two_pow_pos p.curW
  have hlt := Int.emod_lt_of_pos ((wr : Int) - rd) hpos
  have hge := Int.emod_nonneg ((wr : Int) - rd) hpos.ne'
  unfold availOf
  omega

theorem add_availOf_mod (p : Params) (wr rd : Nat) : (rd + availOf p wr rd) % p.modulus = wr % p.modulus := by
  have hpos : (0 : Int) < p.modulus := by exact_mod_cast Nat.two_pow_pos p.curW
  have hge := Int.emod_nonneg ((wr : Int) - rd) hpos.ne'
  zify
  rw [availOf, Int.toNat_of_nonneg hge, Int.add_emod_emod, add_sub_cancel]

end Sys2Proof.Machine

open Sys2Proof Sys2Proof.Machine

/-- Settles O45: the samples accepted are stored as one run, which the end of the push keeps under drop-newest and replaces
under the other policy. -/
theorem audioPushAcceptsPrefix : Obligations.AudioPushAcceptsPrefix := by
  refine ⟨fun s xs k hmem hn hk hkept => ?_, fun s xs k hn hk hlt ho => ?_⟩
  · obtain ⟨_, hbuf, _⟩ := hmem
    have hlen : k ≤ xs.length := hk ▸ Nat.min_le_left _ _
    have hcap : k ≤ s.cfg.ringCap := by omega
    refine ⟨storeRun s.cfg.ringCap s.buf s.wr (xs.take k), ?_, fun i hi => read_storeRun_take hbuf hlen hcap hi,
      fun j hj => read_storeRun_other fun i hi => (hj i (by simp at hi; omega)).symm⟩
    rw [exec_apush xs hn, pushSamples_of_kept hk.symm hkept]
    rfl
  · have haccept : acceptOf s.cfg s.wr s.rd xs.length = k := by unfold acceptOf freeOf; unfold availNow at hk; omega
    rw [exec_apush xs hn, pushSamples, haccept]
    exact congrArg _ (publishSamples_of_overwritten hlt ho)

/-- Settles O46: where enough samples are available the run from the read cursor on is returned, otherwise silence. -/
theorem audioPullAllOrNothing : Obligations.AudioPullAllOrNothing := by
  refine fun s n hn => ⟨fun havail => ⟨loadRun s.cfg.ringCap s.buf s.rd n, ?_, loadRun_length .., fun i hi => ?_⟩,
    fun hshort => ?_⟩
  · rw [exec_apull n hn, pullSamples_of_available havail]
    rfl
  · simp [loadRun, hi]
  · rw [exec_apull n hn, pullSamples_of_short hshort]
    rfl

/-- Settles O47: the result is the difference, reduced to a residue of the modulus. -/
theorem availIsCursorDifference : Obligations.AvailIsCursorDifference :=
  fun s => ⟨rfl, availOf_lt_modulus s.cfg s.wr s.rd, add_availOf_mod s.cfg s.wr s.rd⟩
end

section
/-! SUPPORT. The queue of samples the ring stands for (45_audio_ring.md R175 to R180): what each part of a step makes of it,
and what a pull takes from it. -/

namespace Sys2Proof.Machine

variable {s t : State} {i : Instr} {side : Side} {n k d a b : Nat} {ok : Bool} {xs ys : List Sample} {rest : List Event}
  {agent : Agent} {grain : Grain} {what : Presented}

theorem ringContents_length (s : State) : (ringContents s).length = availNow s := loadRun_length ..

/-! What an APULL has or returns: the oldest samples, or silence. -/

theorem pulled_length (h : ok = true → n ≤ availNow s) : (pulled s ok n).length = n := by
  cases ok with
  | false => exact List.length_replicate
  | true =>
    rw [pulled, if_pos rfl, List.length_take, ringContents_length]
    exact Nat.min_eq_left (h rfl)

theorem pulled_of_available (h : n ≤ availNow s) : pulled s true n = loadRun s.cfg.ringCap s.buf s.rd n :=
  loadRun_take h

/-- The oldest samples stay the oldest while others are added. -/
theorem pulled_of_appended (hcont : ringContents t = ringContents s ++ ys) (h : ok = true → n ≤ availNow s) :
    pulled t ok n = pulled s ok n := by
  cases ok with
  | false => rfl
  | true =>
    change (ringContents t).take n = (ringContents s).take n
    rw [hcont, List.take_append_of_le_length (by rw [ringContents_length]; exact h rfl)]

/-- The first samples and those copied after them (R179 C2). -/
theorem pulled_add (h : ok = true → a + b ≤ availNow s) :
    pulled s ok a ++ (if ok then loadRun s.cfg.ringCap s.buf (s.rd + a) b else silence b) = pulled s ok (a + b) := by
  cases ok with
  | false => exact List.replicate_append_replicate
  | true =>
    have hab : a + b ≤ availNow s := h rfl
    rw [pulled_of_available (by omega), pulled_of_available hab, if_pos rfl, loadRun_add]

/-- A pull in progress keeps what it has copied while samples are added. -/
theorem pullCopied_of_appended (hc : t.acons = s.acons) (hcont : ringContents t = ringContents s ++ ys)
    (hclaim : pullClaim s s.acons) (h : pullCopied s) : pullCopied t := by
  unfold pullCopied at h ⊢
  rw [hc]
  rcases hs : s.acons with _ | ⟨count, _ | ⟨r, ok, out⟩ | ⟨r, ok, out⟩⟩
  · trivial
  · trivial
  · rw [hs] at h hclaim
    obtain ⟨hlen, hout⟩ := h
    obtain ⟨_, havail⟩ := hclaim
    exact ⟨hlen, hout.trans (pulled_of_appended hcont fun hok => le_trans hlen (havail hok)).symm⟩
  · rw [hs] at h hclaim
    obtain ⟨hlen, hout⟩ := h
    obtain ⟨_, havail⟩ := hclaim
    exact ⟨hlen, hout.trans (pulled_of_appended hcont fun hok => le_trans (le_of_eq hlen) (havail hok)).symm⟩

theorem pushStored_congr (hcfg : t.cfg = s.cfg) (hbuf : t.buf = s.buf) (hp : t.aprod = s.aprod) (h : pushStored s) :
    pushStored t := by
  unfold pushStored at h ⊢
  rw [hcfg, hbuf, hp]
  exact h

/-- The invariant while samples are added, or none are. -/
theorem queue_of_appended (h : ringOk s) (hcfg : t.cfg = s.cfg) (hbuf : Memory.wf s.cfg.ringCap t.buf = true)
    (hcur : cursorsOk t) (hstored : pushStored t) (hc : t.acons = s.acons)
    (hcont : ringContents t = ringContents s ++ ys) : ringOk t ∧ ringContents t = ringContents s ++ ys := by
  obtain ⟨hwf, hpolicy, _, ⟨_, _, _, _, hclaim⟩, _, hcopied⟩ := h
  exact ⟨⟨hcfg ▸ hwf, hcfg ▸ hpolicy, hcfg ▸ hbuf, hcur, hstored, pullCopied_of_appended hc hcont hclaim hcopied⟩, hcont⟩

/-! Steps that leave the ring alone. -/

/-- The ring, the operations in progress on it and the parameters are the same. -/
structure SameRing (s t : State) : Prop where
  cfg : t.cfg = s.cfg
  buf : t.buf = s.buf
  wr : t.wr = s.wr
  rd : t.rd = s.rd
  aprod : t.aprod = s.aprod
  acons : t.acons = s.acons

theorem SameChannels.sameRing (h : SameChannels s t) : SameRing s t := ⟨h.cfg, h.buf, h.wr, h.rd, h.aprod, h.acons⟩

theorem queue_of_sameRing (hc : SameRing s t) (h : ringOk s) : ringOk t ∧ ringContents t = ringContents s := by
  obtain ⟨_, _, hbuf, hcur, hstored, _⟩ := id h
  have hcont : ringContents t = ringContents s := by simp only [ringContents, availNow, hc.cfg, hc.buf, hc.wr, hc.rd]
  have hqueue := queue_of_appended (ys := []) h hc.cfg (hc.buf ▸ hbuf)
    (cursorsOk_congr hc.cfg hc.wr hc.rd hc.aprod hc.acons hcur) (pushStored_congr hc.cfg hc.buf hc.aprod hstored) hc.acons
    (by rw [hcont, List.append_nil])
  exact ⟨hqueue.1, hcont⟩

/-! The contents while a push stores, when it publishes, and when a pull frees. -/

/-- Samples stored in free slots are not yet in the queue. -/
theorem loadRun_storeRun_free (hwf : s.cfg.wf = true) (hcur : cursorsOk s)
    (hfits : availNow s + d + ys.length ≤ s.cfg.ringCap) :
    loadRun s.cfg.ringCap (storeRun s.cfg.ringCap s.buf (s.wr + d) ys) s.rd (availNow s) = ringContents s := by
  obtain ⟨hw, hr, _⟩ := hcur
  have hslot : s.rd + availNow s ≡ s.wr [MOD s.cfg.ringCap] := slot_of_avail hwf hw hr
  refine loadRun_ext fun i hi => read_storeRun_other fun j hj => ?_
  have hj' : (s.rd + availNow s + d + j) % s.cfg.ringCap = (s.wr + d + j) % s.cfg.ringCap :=
    (hslot.add_right d).add_right j
  rw [← hj']
  exact (slots_apart (by omega) (by omega)).symm

/-- Publishing what a push has stored behind the contents appends it. -/
theorem ringContents_of_published (hwf : s.cfg.wf = true) (hcur : cursorsOk s) (hfits : availNow s + k ≤ s.cfg.ringCap)
    (hk : k ≤ xs.length) (hkept : loadRun s.cfg.ringCap t.buf s.rd (availNow s) = ringContents s)
    (hstored : ∀ i, i < k → Memory.read t.buf ((s.wr + i) % s.cfg.ringCap) = xs.getD i 0)
    (hcfg : t.cfg = s.cfg) (hwr : t.wr = advanceCursor s.cfg s.wr k) (hrd : t.rd = s.rd) :
    ringContents t = ringContents s ++ xs.take k := by
  obtain ⟨hw, hr, _⟩ := hcur
  have havail : availNow t = availNow s + k := by
    rw [availNow, hcfg, hwr, hrd]
    exact availOf_push hw hr (hfits.trans_lt (ring_params hwf).2.1)
  have hslot : (s.rd + availNow s) % s.cfg.ringCap = s.wr % s.cfg.ringCap := slot_of_avail hwf hw hr
  calc ringContents t
      = loadRun s.cfg.ringCap t.buf s.rd (availNow s + k) := by rw [ringContents, hcfg, hrd, havail]
    _ = ringContents s ++ loadRun s.cfg.ringCap t.buf s.wr k := by rw [loadRun_add, loadRun_congr hslot, hkept]
    _ = ringContents s ++ xs.take k := by rw [loadRun_eq_take hk hstored]

/-- Freeing the slots of the oldest samples removes them. -/
theorem ringContents_of_freed (hwf : s.cfg.wf = true) (hcur : cursorsOk s) (hn : n ≤ availNow s) (hcfg : t.cfg = s.cfg)
    (hbuf : t.buf = s.buf) (hwr : t.wr = s.wr) (hrd : t.rd = advanceCursor s.cfg s.rd n) :
    ringContents t = (ringContents s).drop n := by
  obtain ⟨hw, hr, _⟩ := hcur
  have havail : availNow t = availNow s - n := by
    rw [availNow, hcfg, hwr, hrd]
    exact availOf_pull hw hr hn
  rw [ringContents, ringContents, hcfg, hbuf, hrd, havail, advanceCursor, loadRun_mod (ring_params hwf).2.2, loadRun_drop hn]

/-! Whole operations. -/

/-- What a push accepts fills the free space at most (R175). -/
theorem take_acceptOf (xs : List Sample) (s : State) :
    xs.take (acceptOf s.cfg s.wr s.rd xs.length) = xs.take (s.cfg.ringCap - availNow s) :=
  List.take_eq_take_iff.2 (by simp [acceptOf, freeOf, availNow, min_comm])

theorem pushSamples_queue (h : ringOk s) (hp : s.aprod = none) : ringOk (pushSamples xs s) ∧
    ringContents (pushSamples xs s) = ringContents s ++ xs.take (s.cfg.ringCap - availNow s) := by
  obtain ⟨hwf, hpolicy, hbuf, hcur, _, _⟩ := id h
  obtain ⟨_, _, hcap, _, _⟩ := id hcur
  obtain ⟨hlen, hfits⟩ := acceptOf_fits (n := xs.length) hcap
  have hcur' := exec_cursorsOk hwf hcur (exec_apush xs hp)
  have hkept := loadRun_storeRun_free (d := 0) (ys := xs.take (acceptOf s.cfg s.wr s.rd xs.length)) hwf hcur
    (by rw [List.length_take, Nat.min_eq_left hlen]; exact hfits)
  rw [← take_acceptOf]
  rw [pushSamples_of_kept rfl (.inl hpolicy)] at hcur' ⊢
  exact queue_of_appended h rfl (wf_storeRun (ring_params hwf).1 hbuf) hcur' (by simp only [pushStored, hp]) rfl
    (ringContents_of_published hwf hcur hfits hlen hkept
      (fun i hi => read_storeRun_take hbuf hlen (le_trans (Nat.le_add_left _ _) hfits) hi) rfl rfl rfl)

theorem pullSamples_queue (h : ringOk s) (hc : s.acons = none) : ringOk (pullSamples n s) ∧
    ringContents (pullSamples n s) = (if n ≤ availNow s then (ringContents s).drop n else ringContents s) ∧
    (pullSamples n s).result = .samples (pulled s (decide (n ≤ availNow s)) n) := by
  obtain ⟨hwf, hpolicy, hbuf, hcur, hstored, hcopied⟩ := id h
  have hcur' := exec_cursorsOk hwf hcur (exec_apull n hc)
  rcases Nat.lt_or_ge (availNow s) n with hshort | havail
  · rw [pullSamples_of_short hshort, if_neg hshort.not_ge, decide_eq_false hshort.not_ge]
    exact ⟨h, rfl, rfl⟩
  · rw [pullSamples_of_available havail] at hcur' ⊢
    rw [if_pos havail, decide_eq_true havail, pulled_of_available havail]
    exact ⟨⟨hwf, hpolicy, hbuf, hcur', hstored, by simp only [pullCopied, hc]⟩,
      ringContents_of_freed hwf hcur havail rfl rfl rfl rfl, rfl⟩

/-! Protocol steps. -/

/-- A store step keeps what its push has stored and adds the next samples (R178 P2). -/
theorem read_storeRun_next {m : Memory 16} {cap w next upto j : Nat} (hm : Memory.wf cap m = true) (hnext : next ≤ upto)
    (hlen : upto ≤ xs.length) (hcap : upto ≤ cap)
    (hprev : ∀ i, i < next → Memory.read m ((w + i) % cap) = xs.getD i 0) (hj : j < upto) :
    Memory.read (storeRun cap m (w + next) ((xs.take upto).drop next)) ((w + j) % cap) = xs.getD j 0 := by
  have hrun : ((xs.take upto).drop next).length = upto - next := by rw [List.length_drop, List.length_take]; omega
  rcases Nat.lt_or_ge j next with hold | hnew
  · rw [read_storeRun_other, hprev j hold]
    exact fun i hi => (slots_apart (by omega) (by omega)).symm
  · obtain ⟨d, rfl⟩ := Nat.exists_eq_add_of_le hnew
    rw [← Nat.add_assoc, read_storeRun hm (by omega) (by omega)]
    simp [List.getD, List.getElem?_drop, List.getElem?_take_of_lt hj]

/-- What a push in its copy step has claimed (R178 P1). -/
theorem claim_of_store {w next : Nat} (hcur : cursorsOk s) (hp : s.aprod = some ⟨xs, .store w k next⟩) :
    w = s.wr ∧ next ≤ k ∧ k ≤ xs.length ∧ availNow s + k ≤ s.cfg.ringCap := by
  obtain ⟨_, _, _, hclaim, _⟩ := hcur
  rw [hp] at hclaim
  exact hclaim

/-- What has been stored when a push publishes (R178 P3). -/
theorem claim_of_publish {w : Nat} (hcur : cursorsOk s) (hp : s.aprod = some ⟨xs, .publish w k⟩) :
    w = s.wr ∧ k ≤ xs.length ∧ availNow s + k ≤ s.cfg.ringCap := by
  obtain ⟨_, _, _, hclaim, _⟩ := hcur
  rw [hp] at hclaim
  exact hclaim

/-- A store step leaves the queue as it was, and its samples behind it. -/
theorem contents_of_stored {w next upto : Nat} (h : ringOk s) (hp : s.aprod = some ⟨xs, .store w k next⟩)
    (hnext : next ≤ upto) (hupto : upto ≤ k) {m : Memory 16}
    (hm : m = storeRun s.cfg.ringCap s.buf (w + next) ((xs.take upto).drop next)) :
    loadRun s.cfg.ringCap m s.rd (availNow s) = ringContents s ∧
      ∀ i, i < upto → Memory.read m ((w + i) % s.cfg.ringCap) = xs.getD i 0 := by
  obtain ⟨hwf, _, hbuf, hcur, hstored, _⟩ := h
  obtain ⟨rfl, _, hk, hfits⟩ := claim_of_store hcur hp
  simp only [pushStored, hp] at hstored
  have hrun : ((xs.take upto).drop next).length = upto - next := by rw [List.length_drop, List.length_take]; omega
  subst hm
  exact ⟨loadRun_storeRun_free hwf hcur (by omega),
    fun i hi => read_storeRun_next hbuf hnext (by omega) (by omega) hstored hi⟩

theorem advancePush_queue (h : ringOk s) (ha : advance .audioProducer n s = .next t) :
    ringOk t ∧ ringContents t = ringContents s ++ pushStepAdds s := by
  obtain ⟨hwf, hpolicy, hbuf, hcur, hstored, _⟩ := id h
  have hcur' := advance_cursorsOk hwf hcur ha
  have hcap := (ring_params hwf).1
  cases advance_effect ha with
  | idle _ hidle =>
    have hn : s.aprod = none := Option.not_isSome_iff_eq_none.1 (Bool.eq_false_iff.1 hidle)
    have hadds : pushStepAdds s = [] := by simp only [pushStepAdds, hn]
    rw [hadds, List.append_nil]
    exact ⟨h, rfl⟩
  | pushClaim xs k hp _ =>
    have hadds : pushStepAdds s = [] := by simp only [pushStepAdds, hp]
    have hover := overwriteOldest_dropNewest (s := { s with aprod := some ⟨xs, .store s.wr k 0⟩, result := .none })
      k xs.length hpolicy
    rw [hover] at hcur' ⊢
    rw [hadds]
    exact queue_of_appended h rfl hbuf hcur' nofun rfl (List.append_nil _).symm
  | pushStore xs w k next hp hn =>
    have hadds : pushStepAdds s = [] := by simp only [pushStepAdds, hp]
    obtain ⟨hcont, hnow⟩ := contents_of_stored h hp (Nat.le_add_right next n) hn.le rfl
    rw [hadds]
    exact queue_of_appended h rfl (wf_storeRun hcap hbuf) hcur' hnow rfl (hcont.trans (List.append_nil _).symm)
  | pushStoreEnd xs w k next hp _ =>
    have hadds : pushStepAdds s = [] := by simp only [pushStepAdds, hp]
    obtain ⟨_, hnext, _, _⟩ := claim_of_store hcur hp
    obtain ⟨hcont, hnow⟩ := contents_of_stored h hp hnext le_rfl rfl
    rw [hadds]
    exact queue_of_appended h rfl (wf_storeRun hcap hbuf) hcur' hnow rfl (hcont.trans (List.append_nil _).symm)
  | pushPublish xs w k hp =>
    have hadds : pushStepAdds s = xs.take k := by simp only [pushStepAdds, hp]
    obtain ⟨rfl, hk, hfits⟩ := claim_of_publish hcur hp
    simp only [pushStored, hp] at hstored
    have hpub := publishSamples_of_kept (s := { s with aprod := none }) (w := s.wr) (k := k) (n := xs.length) (.inl hpolicy)
    rw [hpub] at hcur' ⊢
    rw [hadds]
    exact queue_of_appended h rfl hbuf hcur' trivial rfl
      (ringContents_of_published hwf hcur hfits hk rfl hstored rfl rfl rfl)

/-- What a pull in its copy step has claimed and copied (R179 C1, C2). -/
theorem claim_of_copy {count r : Nat} {out : List Sample} (h : ringOk s) (hc : s.acons = some ⟨count, .copy r ok out⟩) :
    r = s.rd ∧ (ok = true → count ≤ availNow s) ∧ out.length ≤ count ∧ out = pulled s ok out.length := by
  obtain ⟨_, _, _, ⟨_, _, _, _, hclaim⟩, _, hcopied⟩ := h
  rw [hc] at hclaim
  simp only [pullCopied, hc] at hcopied
  obtain ⟨hr, havail⟩ := hclaim
  exact ⟨hr, havail, hcopied⟩

/-- What a pull has copied when it frees its slots (R179 C3). -/
theorem claim_of_free {count r : Nat} {out : List Sample} (h : ringOk s) (hc : s.acons = some ⟨count, .free r ok out⟩) :
    r = s.rd ∧ (ok = true → count ≤ availNow s) ∧ out.length = count ∧ out = pulled s ok count := by
  obtain ⟨_, _, _, ⟨_, _, _, _, hclaim⟩, _, hcopied⟩ := h
  rw [hc] at hclaim
  simp only [pullCopied, hc] at hcopied
  obtain ⟨hr, havail⟩ := hclaim
  obtain ⟨hlen, hout⟩ := hcopied
  exact ⟨hr, havail, hlen, hlen ▸ hout⟩

theorem advance_pullFree {count r : Nat} {out : List Sample} (n : Nat) (hc : s.acons = some ⟨count, .free r ok out⟩) :
    advance .audioConsumer n s = .next { s with
      rd := if ok then advanceCursor s.cfg r count else s.rd, acons := none, result := .samples out } := by
  simp only [advance, advancePull, hc]

theorem advancePull_queue (h : ringOk s) (ha : advance .audioConsumer n s = .next t) :
    ringOk t ∧ ringContents t = (ringContents s).drop (pullStepRemoves s) := by
  obtain ⟨hwf, hpolicy, hbuf, hcur, hstored, _⟩ := id h
  have hcur' := advance_cursorsOk hwf hcur ha
  cases advance_effect ha with
  | idle _ hidle =>
    have hn : s.acons = none := Option.not_isSome_iff_eq_none.1 (Bool.eq_false_iff.1 hidle)
    have hremoves : pullStepRemoves s = 0 := by simp only [pullStepRemoves, hn]
    rw [hremoves]
    exact ⟨h, rfl⟩
  | pullClaim count hc _ | pullClaimShort count hc _ =>
    have hremoves : pullStepRemoves s = 0 := by simp only [pullStepRemoves, hc]
    rw [hremoves]
    exact ⟨⟨hwf, hpolicy, hbuf, hcur', hstored, Nat.zero_le _, by simp [pulledSoFar]⟩, rfl⟩
  | pullCopy count r ok out out' stage hc hout' hstage =>
    have hremoves : pullStepRemoves s = 0 := by simp only [pullStepRemoves, hc]
    obtain ⟨rfl, havail, hlen, hout⟩ := claim_of_copy h hc
    have hle : ok = true → out.length + min n (count - out.length) ≤ availNow s := fun hok => by have := havail hok; omega
    have hcopied : out' = pulled s ok (out.length + min n (count - out.length)) := by
      rw [hout', ← pulled_add hle, ← hout]
    have hlen' : out'.length = out.length + min n (count - out.length) := by rw [hcopied, pulled_length hle]
    rw [hremoves]
    refine ⟨⟨hwf, hpolicy, hbuf, hcur', hstored, ?_⟩, rfl⟩
    rw [← hlen'] at hcopied
    subst hstage
    by_cases hend : count - out.length ≤ n
    · simp only [pullCopied, if_pos hend]
      exact ⟨by omega, hcopied⟩
    · simp only [pullCopied, if_neg hend]
      exact ⟨by omega, hcopied⟩
  | pullFree count r ok out hc =>
    obtain ⟨rfl, havail, _, _⟩ := claim_of_free h hc
    have hremoves : pullStepRemoves s = if ok then count else 0 := by simp only [pullStepRemoves, hc]
    rw [hremoves]
    refine ⟨⟨hwf, hpolicy, hbuf, hcur', hstored, trivial⟩, ?_⟩
    cases ok with
    | true => exact ringContents_of_freed hwf hcur (havail rfl) rfl rfl rfl rfl
    | false => rfl

/-! Steps. -/

/-- What `RingIsQueue` asks of a step. -/
def QueueStep (s t : State) : Prop :=
  ringOk t ∧ ringContents t = queueAfter s ∧ ∀ l, samplesAfter s = some l → t.result = .samples l

theorem advance_queueStep (h : ringOk s) (hin : s.inbox = .advance side n :: rest)
    (ha : advance side n { s with inbox := rest } = .next t) : QueueStep s t := by
  cases side with
  | frameProducer | frameConsumer =>
    obtain ⟨hbuf, hwr, hrd, _, hp, hc⟩ := advance_frame_ring_fields (by simp) ha
    obtain ⟨hok, hcont⟩ := queue_of_sameRing (s := s) ⟨(advance_fixed_fields ha).1, hbuf, hwr, hrd, hp, hc⟩ h
    exact ⟨hok, by simp only [queueAfter, hin, hcont], by simp only [samplesAfter, hin]; nofun⟩
  | audioProducer =>
    obtain ⟨hok, hcont⟩ := advancePush_queue (s := { s with inbox := rest }) h ha
    exact ⟨hok, by simp only [queueAfter, hin]; exact hcont, by simp only [samplesAfter, hin]; nofun⟩
  | audioConsumer =>
    obtain ⟨hok, hcont⟩ := advancePull_queue (s := { s with inbox := rest }) h ha
    refine ⟨hok, by simp only [queueAfter, hin]; exact hcont, ?_⟩
    rcases hc : s.acons with _ | ⟨count, _ | ⟨r, ok, out⟩ | ⟨r, ok, out⟩⟩ <;> simp only [samplesAfter, hin, hc]
    · nofun
    · nofun
    · nofun
    · obtain ⟨_, _, _, hout⟩ := claim_of_free h hc
      rintro l ⟨⟩
      rw [← hout]
      cases (advance_pullFree (s := { s with inbox := rest }) n hc).symm.trans ha
      rfl

/-- An operation that uses no channel, and one that uses the frames', leaves the ring as it was. -/
theorem queueAfter_other (hin : s.inbox = .present agent grain what :: rest) (hi : admitted s agent what = .ok i)
    (hpush : ∀ xs, channelUse i ≠ .push xs) (hpull : ∀ n, channelUse i ≠ .pull n) (hreset : channelUse i ≠ .reset) :
    queueAfter s = ringContents s ∧ samplesAfter s = none := by
  cases hu : channelUse i with
  | push xs => exact absurd hu (hpush xs)
  | pull n => exact absurd hu (hpull n)
  | reset => exact absurd hu hreset
  | publish _ | acquire | none => simp only [queueAfter, samplesAfter, hin, hi, hu, and_self]

theorem queueStep_of_other (hin : s.inbox = .present agent grain what :: rest) (hi : admitted s agent what = .ok i)
    (hpush : ∀ xs, channelUse i ≠ .push xs) (hpull : ∀ n, channelUse i ≠ .pull n) (hreset : channelUse i ≠ .reset)
    (h : ringOk s) (hc : SameRing s t) : QueueStep s t := by
  obtain ⟨hqueue, hsamples⟩ := queueAfter_other hin hi hpush hpull hreset
  obtain ⟨hok, hcont⟩ := queue_of_sameRing hc h
  exact ⟨hok, hcont.trans hqueue.symm, fun l hl => nomatch hsamples.symm.trans hl⟩

/-- An operation with a step-level protocol is run only where it is presented whole. -/
theorem atomic_of_begins {out : Host.Outcome State Fault Refusal} (hg : grain = .stepwise → begins i s = none)
    (hb : begins i s = some out) : grain = .atomic := by
  cases grain with
  | atomic => rfl
  | stepwise => exact absurd (hb.symm.trans (hg rfl)) nofun

theorem exec_queueStep (h : ringOk s) (hin : s.inbox = .present agent grain what :: rest)
    (hi : admitted s agent what = .ok i) (hg : grain = .stepwise → begins i (takeEntry rest s) = none)
    (he : exec i (takeEntry rest s) = .next t) : QueueStep s t := by
  rcases exec_channel_cases he with ⟨f, F, rfl, _, _, rfl⟩ | ⟨rfl, _, rfl⟩ | ⟨xs, rfl, hn, rfl⟩ | ⟨n, rfl, hn, rfl⟩ |
    ⟨rfl, rfl⟩ | ⟨hnone, hc⟩
  · obtain ⟨m, p, hpub⟩ := publish_changes F (takeEntry rest s)
    rw [hpub]
    exact queueStep_of_other hin hi nofun nofun nofun h ⟨rfl, rfl, rfl, rfl, rfl, rfl⟩
  · obtain ⟨c, q, hacq⟩ := acquire_changes (takeEntry rest s)
    rw [hacq]
    exact queueStep_of_other hin hi nofun nofun nofun h ⟨rfl, rfl, rfl, rfl, rfl, rfl⟩
  · have hatomic := atomic_of_begins hg (begins_apush hn)
    obtain ⟨hok, hcont⟩ := pushSamples_queue (s := takeEntry rest s) (xs := xs) h hn
    refine ⟨hok, hcont.trans ?_, ?_⟩
    · simp only [queueAfter, hin, hi, channelUse, hatomic, if_true]; rfl
    · simp only [samplesAfter, hin, hi, channelUse]; nofun
  · have hatomic := atomic_of_begins hg (begins_apull hn)
    obtain ⟨hok, hcont, hresult⟩ := pullSamples_queue (s := takeEntry rest s) (n := n) h hn
    refine ⟨hok, hcont.trans ?_, ?_⟩
    · simp only [queueAfter, hin, hi, channelUse, hatomic, true_and]; rfl
    · simp only [samplesAfter, hin, hi, channelUse, hatomic, if_true]
      rintro l ⟨⟩
      exact hresult
  · obtain ⟨hwf, hpolicy, _, hcur, _⟩ := h
    have hempty : availNow (resetState (takeEntry rest s)) = 0 := by simp [availNow, availOf, resetState, State.reset]
    refine ⟨⟨hwf, hpolicy, Memory.wf_nil _, exec_cursorsOk (s := takeEntry rest s) hwf hcur he, trivial, trivial⟩, ?_, ?_⟩
    · simp only [queueAfter, hin, hi, channelUse, ringContents, hempty]; rfl
    · simp only [samplesAfter, hin, hi, channelUse]; nofun
  · exact queueStep_of_other hin hi (by simp [hnone]) (by simp [hnone]) (by simp [hnone]) h
      ⟨hc.cfg, hc.buf, hc.wr, hc.rd, hc.aprod, hc.acons⟩

/-- An APUSH or APULL that is begun has neither added nor removed anything. -/
theorem begins_queueStep (h : ringOk s) (hin : s.inbox = .present agent .stepwise what :: rest)
    (hi : admitted s agent what = .ok i) (hb : begins i (takeEntry rest s) = some (.next t)) : QueueStep s t := by
  rcases begins_effect hb with ⟨f, F, rfl, _, _, rfl⟩ | ⟨rfl, _, rfl⟩ | ⟨xs, rfl, _, rfl⟩ | ⟨n, rfl, _, rfl⟩
  · exact queueStep_of_other hin hi nofun nofun nofun h ⟨rfl, rfl, rfl, rfl, rfl, rfl⟩
  · exact queueStep_of_other hin hi nofun nofun nofun h ⟨rfl, rfl, rfl, rfl, rfl, rfl⟩
  · obtain ⟨hwf, hpolicy, hbuf, ⟨hw, hr, hcap, _, hpull⟩, _, hcopied⟩ := h
    refine ⟨⟨hwf, hpolicy, hbuf, ⟨hw, hr, hcap, trivial, hpull⟩, trivial, hcopied⟩, ?_, ?_⟩
    · simp only [queueAfter, hin, hi, channelUse]; rfl
    · simp only [samplesAfter, hin, hi, channelUse]; nofun
  · obtain ⟨hwf, hpolicy, hbuf, ⟨hw, hr, hcap, hpush, _⟩, hstored, _⟩ := h
    refine ⟨⟨hwf, hpolicy, hbuf, ⟨hw, hr, hcap, hpush, trivial⟩, hstored, trivial⟩, ?_, ?_⟩
    · simp only [queueAfter, hin, hi, channelUse]; rfl
    · simp only [samplesAfter, hin, hi, channelUse]; nofun

theorem step_queueStep (h : ringOk s) (hs : step s = .next t) : QueueStep s t := by
  rcases step_cases hs with ⟨hin, rfl⟩ | ⟨side, n, rest, hin, ha⟩ | ⟨loop, rest, hin, _, _, rfl⟩ |
    ⟨_, _, _, rest, i, hin, hi, ⟨he, hg⟩ | ⟨rfl, hb⟩⟩
  · exact ⟨h, by simp only [queueAfter, hin], by simp only [samplesAfter, hin]; nofun⟩
  · exact advance_queueStep h hin ha
  · obtain ⟨hok, hcont⟩ := queue_of_sameRing (pollRunning_sameChannels loop (takeEntry rest s)).sameRing h
    exact ⟨hok, by simp only [queueAfter, hin]; exact hcont, by simp only [samplesAfter, hin]; nofun⟩
  · exact exec_queueStep h hin hi hg he
  · exact begins_queueStep h hin hi hb

end Sys2Proof.Machine

open Sys2Proof Sys2Proof.Machine

/-- Settles O49: only a push that publishes and a pull that frees move the cursors, each by the samples it stored or copied
between them. -/
theorem ringIsQueue : Obligations.RingIsQueue := fun _ _ h hs => step_queueStep h hs
end

section
/-! SUPPORT. The steps of the audio protocols as equations, and a run of them (45_audio_ring.md R178, R179). -/

namespace Sys2Proof.Machine

variable {s : State} {n k w next count r : Nat} {ok : Bool} {xs out : List Sample} {rest : List Event} {ns : List Nat}

/-! The protocol steps, stage by stage. -/

theorem advance_pushClaim (n : Nat) (hp : s.aprod = some ⟨xs, .claim⟩) (hk : acceptOf s.cfg s.wr s.rd xs.length = k)
    (h : s.cfg.overrun = .dropNewest ∨ k = xs.length) :
    advance .audioProducer n s = .next { s with aprod := some ⟨xs, .store s.wr k 0⟩, result := .none } := by
  simp only [advance, advancePush, hp, hk]
  rcases h with hpolicy | rfl
  · exact congrArg _ (overwriteOldest_dropNewest k xs.length hpolicy)
  · exact congrArg _ (overwriteOldest_fits le_rfl)

theorem advance_pushStore (hp : s.aprod = some ⟨xs, .store w k next⟩) (hn : next + n < k) :
    advance .audioProducer n s = .next { s with
      buf := storeRun s.cfg.ringCap s.buf (w + next) ((xs.take (next + n)).drop next)
      aprod := some ⟨xs, .store w k (next + n)⟩
      result := .none } := by
  simp [advance, advancePush, hp, Nat.min_eq_left hn.le, Nat.not_le.2 hn]

theorem advance_pushStoreEnd (hp : s.aprod = some ⟨xs, .store w k next⟩) (hn : k ≤ next + n) :
    advance .audioProducer n s = .next { s with
      buf := storeRun s.cfg.ringCap s.buf (w + next) ((xs.take k).drop next)
      aprod := some ⟨xs, .publish w k⟩
      result := .none } := by
  simp [advance, advancePush, hp, hn]

theorem advance_pushPublish (n : Nat) (hp : s.aprod = some ⟨xs, .publish w k⟩) :
    advance .audioProducer n s = .next (publishSamples w k xs.length { s with aprod := none }) := by
  simp only [advance, advancePush, hp]

/-- The claim decides between the samples of the ring and silence, and has none of them yet. -/
theorem advance_pullClaim (n : Nat) (hc : s.acons = some ⟨count, .claim⟩) (hok : ok = decide (count ≤ availNow s)) :
    advance .audioConsumer n s = .next { s with
      acons := some ⟨count, .copy s.rd ok (pulled s ok 0)⟩
      raised := if ok then s.raised else s.raised ++ [.audioUnderrun count (availNow s)]
      result := .none } := by
  subst hok
  by_cases h : count ≤ availOf s.cfg s.wr s.rd <;> simp [advance, advancePull, hc, availNow, raise, pulled, h]

/-- A copy step that goes on has the next of the samples it returns. -/
theorem advance_pullCopy (hc : s.acons = some ⟨count, .copy s.rd ok (pulled s ok next)⟩)
    (havail : ok = true → count ≤ availNow s) (hn : next + n < count) :
    advance .audioConsumer n s =
      .next { s with acons := some ⟨count, .copy s.rd ok (pulled s ok (next + n))⟩, result := .none } := by
  have hlen : (pulled s ok next).length = next := pulled_length fun hok => by have := havail hok; omega
  have hgo : ¬count - next ≤ n := by omega
  simp only [advance, advancePull, hc, hlen, if_neg hgo, Nat.min_eq_left (Nat.not_le.1 hgo).le]
  rw [pulled_add fun hok => by have := havail hok; omega]

theorem advance_pullCopyEnd (hc : s.acons = some ⟨count, .copy s.rd ok (pulled s ok next)⟩)
    (havail : ok = true → count ≤ availNow s) (hnext : next ≤ count) (hn : count ≤ next + n) :
    advance .audioConsumer n s =
      .next { s with acons := some ⟨count, .free s.rd ok (pulled s ok count)⟩, result := .none } := by
  have hlen : (pulled s ok next).length = next := pulled_length fun hok => hnext.trans (havail hok)
  have hend : count - next ≤ n := by omega
  have hall : next + (count - next) = count := by omega
  simp only [advance, advancePull, hc, hlen, if_pos hend, Nat.min_eq_right hend]
  rw [pulled_add fun hok => hall.le.trans (havail hok), hall]

/-! Runs of protocol steps. -/

/-- Two runs of a push's samples, one after the other, are one. -/
theorem storeRun_storeRun {cap mid : Nat} (m : Memory 16) (h1 : next ≤ mid) (h2 : mid ≤ k) (hk : k ≤ xs.length) :
    storeRun cap (storeRun cap m (w + next) ((xs.take mid).drop next)) (w + mid) ((xs.take k).drop mid) =
      storeRun cap m (w + next) ((xs.take k).drop next) := by
  have hlen : w + next + ((xs.take mid).drop next).length = w + mid := by
    rw [List.length_drop, List.length_take]; omega
  have hsplit : (xs.take mid).drop next ++ (xs.take k).drop mid = (xs.take k).drop next := by
    have hmid : xs.take mid = (xs.take k).take mid := by rw [List.take_take, Nat.min_eq_left h2]
    rw [hmid, ← List.drop_append_of_le_length (by rw [List.length_take, List.length_take]; omega), List.take_append_drop]
  rw [← hsplit, storeRun_append, hlen]

/-- The copy steps of a push, whatever the lengths of their runs, store the rest of what it accepted. -/
theorem run_pushStores (j : Nat) (hin : s.inbox = ns.map (.advance .audioProducer) ++ rest)
    (hp : s.aprod = some ⟨xs, .store w k next⟩) (hk : k ≤ xs.length) (hne : ns ≠ []) (hall : k ≤ next + ns.sum)
    (hlast : ns.dropLast = [] ∨ next + ns.dropLast.sum < k) :
    Host.Core.run Sys2Proof.core (ns.length + j) s = Host.Core.run Sys2Proof.core j { s with
      buf := storeRun s.cfg.ringCap s.buf (w + next) ((xs.take k).drop next)
      aprod := some ⟨xs, .publish w k⟩
      inbox := rest
      result := .none } := by
  induction ns generalizing s next with
  | nil => exact absurd rfl hne
  | cons n ns ih =>
    rw [List.length_cons, Nat.add_right_comm]
    cases ns with
    | nil => exact (run_advance _ hin (advance_pushStoreEnd hp (by simpa using hall))).trans (by simp)
    | cons m ms =>
      have hmore : next + n + (m :: ms).dropLast.sum < k := by simpa [Nat.add_assoc] using hlast
      rw [run_advance _ hin (advance_pushStore hp (by omega))]
      refine Eq.trans (ih rfl rfl (List.cons_ne_nil _ _) (by simpa [Nat.add_assoc] using hall) (.inr hmore)) ?_
      rw [storeRun_storeRun s.buf (Nat.le_add_right next n) (by omega) hk]

/-- The copy steps of a pull likewise. -/
theorem run_pullCopies (j : Nat) (hin : s.inbox = ns.map (.advance .audioConsumer) ++ rest)
    (hc : s.acons = some ⟨count, .copy s.rd ok (pulled s ok next)⟩) (havail : ok = true → count ≤ availNow s)
    (hnext : next ≤ count) (hne : ns ≠ []) (hall : count ≤ next + ns.sum)
    (hlast : ns.dropLast = [] ∨ next + ns.dropLast.sum < count) :
    Host.Core.run Sys2Proof.core (ns.length + j) s = Host.Core.run Sys2Proof.core j { s with
      acons := some ⟨count, .free s.rd ok (pulled s ok count)⟩, inbox := rest, result := .none } := by
  induction ns generalizing s next with
  | nil => exact absurd rfl hne
  | cons n ns ih =>
    rw [List.length_cons, Nat.add_right_comm]
    cases ns with
    | nil =>
      rw [run_advance _ hin (advance_pullCopyEnd hc havail hnext (by simpa using hall)), List.length_nil, Nat.zero_add]
      rfl
    | cons m ms =>
      have hmore : next + n + (m :: ms).dropLast.sum < count := by simpa [Nat.add_assoc] using hlast
      rw [run_advance _ hin (advance_pullCopy hc havail (by omega))]
      exact ih rfl rfl havail (by omega) (List.cons_ne_nil _ _) (by simpa [Nat.add_assoc] using hall) (.inr hmore)

/-- A whole push, step by step: free slots claimed, every run stored, the cursor published. -/
theorem run_push (hin : s.inbox =
      .advance .audioProducer 0 :: ns.map (.advance .audioProducer) ++ [.advance .audioProducer 0])
    (hp : s.aprod = some ⟨xs, .claim⟩) (hk : acceptOf s.cfg s.wr s.rd xs.length = k)
    (hkept : s.cfg.overrun = .dropNewest ∨ k = xs.length) (hne : ns ≠ []) (hall : k ≤ ns.sum)
    (hlast : ns.dropLast = [] ∨ ns.dropLast.sum < k) :
    Host.Core.run Sys2Proof.core (ns.length + 2) s = .next (pushSamples xs { s with aprod := none, inbox := [] }) := by
  have hle : k ≤ xs.length := hk ▸ Nat.min_le_left _ _
  rw [run_advance _ hin (advance_pushClaim 0 hp hk hkept)]
  refine Eq.trans (run_pushStores 1 rfl rfl hle hne (by simpa using hall) (by simpa using hlast)) ?_
  rw [run_advance 0 rfl (advance_pushPublish 0 rfl)]
  simp only [Host.Core.run]
  rw [pushSamples_of_kept (s := { s with aprod := none, inbox := [] }) hk hkept, publishSamples_of_kept]
  · simp only [Nat.add_zero, List.drop_zero]
  · exact hkept

/-- A whole pull, step by step: success or silence decided, every run copied, the slots freed. -/
theorem run_pull (hin : s.inbox =
      .advance .audioConsumer 0 :: ns.map (.advance .audioConsumer) ++ [.advance .audioConsumer 0])
    (hc : s.acons = some ⟨count, .claim⟩) (hne : ns ≠ []) (hall : count ≤ ns.sum)
    (hlast : ns.dropLast = [] ∨ ns.dropLast.sum < count) :
    Host.Core.run Sys2Proof.core (ns.length + 2) s = .next (pullSamples count { s with acons := none, inbox := [] }) := by
  obtain ⟨ok, hok⟩ : ∃ ok, ok = decide (count ≤ availNow s) := ⟨_, rfl⟩
  rw [run_advance _ hin (advance_pullClaim 0 hc hok)]
  have havail : ok = true → count ≤ availNow s := fun h => of_decide_eq_true (hok ▸ h)
  refine Eq.trans (run_pullCopies (next := 0) (ok := ok) 1 rfl rfl havail (Nat.zero_le _) hne (by simpa using hall)
    (by simpa using hlast)) ?_
  rw [run_advance 0 rfl (advance_pullFree 0 rfl)]
  simp only [Host.Core.run]
  cases ok with
  | false =>
    have hshort : availNow s < count := Nat.not_le.1 (of_decide_eq_false hok.symm)
    rw [pullSamples_of_short (s := { s with acons := none, inbox := [] }) hshort]
    rfl
  | true =>
    rw [pullSamples_of_available (s := { s with acons := none, inbox := [] }) (havail rfl), ← pulled_of_available (havail rfl)]
    rfl

end Sys2Proof.Machine

open Sys2Proof Sys2Proof.Machine

/-- Settles O50: runs copied in index order are one run, whose end publishes or frees as the whole operation does. -/
theorem audioProtocolsRefineAtomic : Obligations.AudioProtocolsRefineAtomic := by
  refine fun s ns k hne hall hlast => ⟨fun xs hp hk hkept => ?_, fun hc => ?_⟩
  · rw [exec_apush xs rfl]
    exact run_push rfl hp hk.symm hkept hne hall hlast
  · rw [exec_apull k rfl]
    exact run_pull rfl hc hne hall hlast
end

section
/-! SUPPORT. The two channels are independent (45_audio_ring.md R182): an operation or step of one neither reads nor writes
the fields of the other. -/

namespace Sys2Proof.Machine

variable {s t : State}

/-- The state with another FrameChannel. -/
def withFrames (m : Frame) (l : Lock) (p : Option Publish) (c : Option Acquire) (s : State) : State :=
  { s with slot := m, flock := l, fprod := p, fcons := c }

/-- The state with another AudioRing. -/
def withRing (m : Memory 16) (w r d : Nat) (p : Option Push) (c : Option Pull) (s : State) : State :=
  { s with buf := m, wr := w, rd := r, overrunDropped := d, aprod := p, acons := c }

/-! The AudioRing's own operations and steps. -/

section
variable (m : Frame) (l : Lock) (p : Option Publish) (c : Option Acquire)

theorem publishSamples_withFrames (w k n : Nat) (s : State) :
    publishSamples w k n (withFrames m l p c s) = withFrames m l p c (publishSamples w k n s) := by
  rw [publishSamples_eq, publishSamples_eq]
  rfl

theorem overwriteOldest_withFrames (k n : Nat) (s : State) :
    overwriteOldest k n (withFrames m l p c s) = withFrames m l p c (overwriteOldest k n s) := by
  unfold overwriteOldest
  rw [apply_ite (withFrames m l p c)]
  rfl

theorem pushSamples_withFrames (xs : List Sample) (s : State) :
    pushSamples xs (withFrames m l p c s) = withFrames m l p c (pushSamples xs s) :=
  publishSamples_withFrames m l p c _ _ _ { s with buf := storeRun s.cfg.ringCap s.buf s.wr (xs.take _) }

theorem pullSamples_withFrames (n : Nat) (s : State) :
    pullSamples n (withFrames m l p c s) = withFrames m l p c (pullSamples n s) := by
  unfold pullSamples
  rw [apply_ite (withFrames m l p c)]
  rfl

theorem advancePush_withFrames (n : Nat) (s : State) :
    advancePush n (withFrames m l p c s) = withFrames m l p c (advancePush n s) := by
  have hin : (withFrames m l p c s).aprod = s.aprod := rfl
  rcases hp : s.aprod with _ | ⟨xs, _ | ⟨w, k, next⟩ | ⟨w, k⟩⟩ <;> simp only [advancePush, hin, hp]
  · rfl
  · exact overwriteOldest_withFrames m l p c _ _ { s with aprod := _, result := .none }
  · rfl
  · exact publishSamples_withFrames m l p c w k _ { s with aprod := none }

theorem advancePull_withFrames (n : Nat) (s : State) :
    advancePull n (withFrames m l p c s) = withFrames m l p c (advancePull n s) := by
  have hin : (withFrames m l p c s).acons = s.acons := rfl
  rcases hc : s.acons with _ | ⟨count, _ | ⟨r, ok, out⟩ | ⟨r, ok, out⟩⟩ <;> simp only [advancePull, hin, hc]
  · rfl
  · rw [apply_ite (withFrames m l p c)]
    rfl
  · rfl
  · rfl

end

/-! The FrameChannel's. -/

section
variable (m : Memory 16) (w r d : Nat) (p : Option Push) (c : Option Pull)

theorem publish_withRing (F : Frame) (s : State) :
    publish F (withRing m w r d p c s) = withRing m w r d p c (publish F s) := by
  unfold publish
  rw [apply_ite (withRing m w r d p c)]
  rfl

theorem acquire_withRing (s : State) : acquire (withRing m w r d p c s) = withRing m w r d p c (acquire s) := by
  unfold acquire
  rw [apply_ite (withRing m w r d p c)]
  rfl

theorem advancePublish_withRing (n : Nat) (s : State) :
    advancePublish n (withRing m w r d p c s) = withRing m w r d p c (advancePublish n s) := by
  have hin : (withRing m w r d p c s).fprod = s.fprod := rfl
  rcases hp : s.fprod with _ | ⟨F, _ | next | _⟩ <;> simp only [advancePublish, hin, hp]
  · rfl
  · rw [apply_ite (withRing m w r d p c)]
    rfl
  · rfl
  · rfl

theorem advanceAcquire_withRing (n : Nat) (s : State) :
    advanceAcquire n (withRing m w r d p c s) = withRing m w r d p c (advanceAcquire n s) := by
  have hin : (withRing m w r d p c s).fcons = s.fcons := rfl
  rcases hc : s.fcons with _ | _ | ⟨out, next⟩ | out <;> simp only [advanceAcquire, hin, hc]
  · rfl
  · rw [apply_ite (withRing m w r d p c)]
    rfl
  · rfl
  · rfl

end

/-! Fields that stay. -/

theorem eq_withFrames (h : t.slot = s.slot ∧ t.flock = s.flock ∧ t.fprod = s.fprod ∧ t.fcons = s.fcons) :
    t = withFrames s.slot s.flock s.fprod s.fcons t := by
  obtain ⟨hslot, hflock, hfprod, hfcons⟩ := h
  rw [← hslot, ← hflock, ← hfprod, ← hfcons]
  rfl

theorem eq_withRing (h : t.buf = s.buf ∧ t.wr = s.wr ∧ t.rd = s.rd ∧ t.overrunDropped = s.overrunDropped ∧
    t.aprod = s.aprod ∧ t.acons = s.acons) :
    t = withRing s.buf s.wr s.rd s.overrunDropped s.aprod s.acons t := by
  obtain ⟨hbuf, hwr, hrd, hdropped, haprod, hacons⟩ := h
  rw [← hbuf, ← hwr, ← hrd, ← hdropped, ← haprod, ← hacons]
  rfl

end Sys2Proof.Machine

open Sys2Proof Sys2Proof.Machine

/-- Settles O51: an operation or step of one channel does the same where the other channel is another, and leaves the fields
of the other as they were. -/
theorem audioAndFramesIndependent : Obligations.AudioAndFramesIndependent := by
  refine ⟨fun s t m l p c o ho hs => ?_, fun s t m w r d p c o ho hs => ?_⟩
  · rcases ho with ⟨xs, rfl⟩ | ⟨n, rfl⟩ | rfl | ⟨n, rfl⟩ | ⟨n, rfl⟩
    · obtain ⟨hn, rfl⟩ := exec_apush_next hs
      exact ⟨(exec_apush (s := withFrames m l p c s) xs hn).trans (congrArg _ (pushSamples_withFrames m l p c xs s)),
        eq_withFrames ((exec_effect hs).frame_fields nofun nofun nofun)⟩
    · obtain ⟨hn, rfl⟩ := exec_apull_next hs
      exact ⟨(exec_apull (s := withFrames m l p c s) n hn).trans (congrArg _ (pullSamples_withFrames m l p c n s)),
        eq_withFrames ((exec_effect hs).frame_fields nofun nofun nofun)⟩
    · cases hs
      exact ⟨rfl, rfl⟩
    · have hframes := advance_audio_frame_fields (.inl rfl) hs
      cases hs
      exact ⟨congrArg _ (advancePush_withFrames m l p c n s), eq_withFrames hframes⟩
    · have hframes := advance_audio_frame_fields (.inr rfl) hs
      cases hs
      exact ⟨congrArg _ (advancePull_withFrames m l p c n s), eq_withFrames hframes⟩
  · rcases ho with ⟨f, rfl⟩ | rfl | ⟨n, rfl⟩ | ⟨n, rfl⟩
    · obtain ⟨F, hF, hn, rfl⟩ := exec_fpub_next hs
      exact ⟨(exec_fpub (s := withRing m w r d p c s) hF hn).trans (congrArg _ (publish_withRing m w r d p c F s)),
        eq_withRing ((exec_effect hs).ring_fields nofun nofun nofun)⟩
    · obtain ⟨hn, rfl⟩ := exec_facq_next hs
      exact ⟨(exec_facq (s := withRing m w r d p c s) hn).trans (congrArg _ (acquire_withRing m w r d p c s)),
        eq_withRing ((exec_effect hs).ring_fields nofun nofun nofun)⟩
    · have hring := advance_frame_ring_fields (.inl rfl) hs
      cases hs
      exact ⟨congrArg _ (advancePublish_withRing m w r d p c n s), eq_withRing hring⟩
    · have hring := advance_frame_ring_fields (.inr rfl) hs
      cases hs
      exact ⟨congrArg _ (advanceAcquire_withRing m w r d p c n s), eq_withRing hring⟩
end

section
/-! SUPPORT. The conditions each operation raises (60_exceptions.md R200 to R204): the accesses without a handler, GUNTG, and
the audio operations that want more than there is; nothing else raises any. -/

namespace Sys2Proof.Machine

variable {s t : State} {i : Instr}

/-! The Bus: the ports and the strobe raise nothing, LOW what its mode says, the dispatch what the address says. -/

theorem readPort1_raised (s : State) : (readPort1 s).raised = s.raised := by
  obtain ⟨_, _, _, h⟩ := readPort1_changes s
  rw [h]

theorem readPort2_raised (s : State) : (readPort2 s).raised = s.raised := by
  obtain ⟨_, _, _, h⟩ := readPort2_changes s
  rw [h]

theorem writeStrobe_raised (v : Byte) (s : State) : (writeStrobe v s).raised = s.raised := by rw [writeStrobe_eq]

theorem readLow_raised (a : Addr) (s : State) :
    (readLow a s).raised = s.raised ++ if s.cfg.lowMode = .unmapped then [.unmappedRead a] else [] := by
  cases hmode : s.cfg.lowMode
  · rw [readLow_forward hmode, query_raised, if_neg nofun, List.append_nil]
  · rw [readLow_unmapped hmode, if_pos rfl]
    rfl

theorem writeLow_raised (a : Addr) (v : Byte) (s : State) :
    (writeLow a v s).raised = s.raised ++ if s.cfg.lowMode = .unmapped then [.unmappedWrite a] else [] := by
  cases hmode : s.cfg.lowMode
  · rw [writeLow_forward hmode, notify_raised, if_neg nofun, List.append_nil]
  · rw [writeLow_unmapped hmode, if_pos rfl]
    rfl

/-- A read whose address has a handler raises nothing. -/
theorem busRead_raised_of_handled {a : Addr} (h : unmappedAt s a = false) : (busRead a s).raised = s.raised := by
  obtain ⟨hregion, hlow⟩ := not_or.1 (mt unmappedAt_iff_region.2 (Bool.eq_false_iff.1 h))
  unfold busRead
  split
  case h_1 hr => rw [readLow_raised, if_neg fun hmode => hlow ⟨hr, hmode⟩, List.append_nil]
  case h_2 | h_4 => rfl
  case h_3 =>
    split_ifs
    · exact readPort1_raised s
    · exact readPort2_raised s
    · rfl
  case h_5 hr => exact absurd hr hregion

/-- A write whose address has a handler raises nothing. -/
theorem busWrite_raised_of_handled {a : Addr} (v : Byte) (h : unmappedAt s a = false) :
    (busWrite a v s).raised = s.raised := by
  obtain ⟨hregion, hlow⟩ := not_or.1 (mt unmappedAt_iff_region.2 (Bool.eq_false_iff.1 h))
  unfold busWrite
  split
  case h_1 hr => rw [writeLow_raised, if_neg fun hmode => hlow ⟨hr, hmode⟩, List.append_nil]
  case h_2 | h_4 => rfl
  case h_3 =>
    split_ifs
    · exact writeStrobe_raised v s
    · rfl
  case h_5 hr => exact absurd hr hregion

/-- EC1 of a read (R201). -/
theorem busRead_raised (a : Addr) (s : State) :
    (busRead a s).raised = s.raised ++ if unmappedAt s a then [.unmappedRead a] else [] := by
  cases h : unmappedAt s a
  · rw [busRead_raised_of_handled h, if_neg nofun, List.append_nil]
  · rw [busRead_of_unmappedAt h, if_pos rfl]
    rfl

/-- EC1 of a write (R201). -/
theorem busWrite_raised (a : Addr) (v : Byte) (s : State) :
    (busWrite a v s).raised = s.raised ++ if unmappedAt s a then [.unmappedWrite a] else [] := by
  cases h : unmappedAt s a
  · rw [busWrite_raised_of_handled v h, if_neg nofun, List.append_nil]
  · rw [busWrite_of_unmappedAt v h, if_pos rfl]
    rfl

/-! The two channels: a frame is published or acquired, or waited for, without a condition. -/

theorem publish_raised (F : Frame) (s : State) : (publish F s).raised = s.raised := by
  unfold publish
  split <;> rfl

theorem acquire_raised (s : State) : (acquire s).raised = s.raised := by
  unfold acquire
  split <;> rfl

/-- EC3 (R203). -/
theorem pullSamples_raised (n : Nat) (s : State) :
    (pullSamples n s).raised = s.raised ++ if availNow s < n then [.audioUnderrun n (availNow s)] else [] := by
  split
  · next hshort => rw [pullSamples_of_short hshort]
  · next henough => rw [pullSamples_of_available (Nat.not_lt.1 henough), List.append_nil]

/-- The end of a push of which `k` of `n` samples fit raises EC4 over the others. -/
theorem publishSamples_raised (w k n : Nat) (s : State) :
    (publishSamples w k n s).raised = s.raised ++ if k < n then [.audioOverrun (n - k)] else [] := by
  rw [publishSamples_eq]
  by_cases hover : k < n
  · rw [if_pos hover, if_pos hover]
  · rw [if_neg hover, if_neg hover, List.append_nil]

/-- EC4 (R204): the samples that do not fit are those beyond the free room. -/
theorem pushSamples_raised (xs : List Sample) (s : State) :
    (pushSamples xs s).raised = s.raised ++ if s.cfg.ringCap - availNow s < xs.length then
      [.audioOverrun (xs.length - (s.cfg.ringCap - availNow s))] else [] := by
  have haccept : acceptOf s.cfg s.wr s.rd xs.length = min xs.length (s.cfg.ringCap - availNow s) := rfl
  rw [pushSamples, publishSamples_raised, haccept]
  rcases Nat.lt_or_ge (s.cfg.ringCap - availNow s) xs.length with hover | hfits
  · rw [min_eq_right hover.le]
  · rw [min_eq_left hfits, if_neg (lt_irrefl _), if_neg hfits.not_gt]

/-! Every operation. -/

/-- Of the operations that are not the Bus's, GUNTG, APULL and APUSH alone raise. -/
theorem exec_raised_of_not_busOp (hb : busOp i = false) (h : exec i s = .next t) :
    t.raised = s.raised ++ conditionsOf i s := by
  cases exec_effect h with
  | forward _ _ hf _ => exact absurd (hb.symm.trans hf) Bool.false_ne_true
  | port1 _ hi | port2 _ hi | strobe _ _ hi => rcases hi with rfl | rfl <;> cases hb
  | guntg => rfl
  | apull n => exact pullSamples_raised n s
  | apush xs => exact pushSamples_raised xs s
  | fpub _ F => exact (publish_raised F s).trans (List.append_nil _).symm
  | facq => exact (acquire_raised s).trans (List.append_nil _).symm
  | snap | gundn | gunup | irqa | irqk | irqv | reset | stop | avail => exact (List.append_nil _).symm

/-- An operation of the Bus raises EC1 where its address has no handler. -/
theorem exec_raised_of_busOp (hb : busOp i = true) (h : exec i s = .next t) :
    t.raised = s.raised ++ conditionsOf i s := by
  cases i with
  | cpur a => cases h; exact busRead_raised a s
  | cpuw a v => cases h; exact busWrite_raised a v s
  | cpurLow0000 off => cases h; rw [readLow_raised, rowAddr_low0000]; rfl
  | cpuwLow0000 off v => cases h; rw [writeLow_raised, rowAddr_low0000]; rfl
  | cpurUnmapped4018 _ | cpuwUnmapped4018 _ _ => cases h; rfl
  | cpurPort1 => cases h; exact (readPort1_raised s).trans (List.append_nil _).symm
  | cpurPort2 => cases h; exact (readPort2_raised s).trans (List.append_nil _).symm
  | cpuwStrobe v => cases h; exact (writeStrobe_raised v s).trans (List.append_nil _).symm
  | ppur _ | ppuw _ _ | setnmi _ | ppucfg _ _ | cpurPpu2000 _ | cpuwPpu2000 _ _ | cpurIo4000 _ | cpuwIo4000 _ _
  | cpurIo4010 _ | cpuwIo4010 _ _ | cpurIo4014 _ | cpuwIo4014 _ _ | cpuwPort2 _ | cpurCart4020 _ | cpuwCart4020 _ _
  | cpurCart4040 _ | cpuwCart4040 _ _ | cpurCart4080 _ | cpuwCart4080 _ _ | cpurCart4100 _ | cpuwCart4100 _ _
  | cpurCart4200 _ | cpuwCart4200 _ _ | cpurCart4400 _ | cpuwCart4400 _ _ | cpurCart4800 _ | cpuwCart4800 _ _
  | cpurCart5000 _ | cpuwCart5000 _ _ | cpurCart6000 _ | cpuwCart6000 _ _ | cpurCart8000 _ | cpuwCart8000 _ _ =>
    cases h; exact (List.append_nil _).symm
  | snap _ | gundn _ _ | gunup | guntg | irqa _ | irqk _ | irqv | fpub _ | facq | apush _ | apull _ | reset | stop
  | avail => cases hb

end Sys2Proof.Machine

open Sys2Proof Sys2Proof.Machine

/-- Settles O59: an operation of the Bus raises what its address says; of the others GUNTG, APULL and APUSH raise their own
condition. -/
theorem conditionsRaisedByTable : Obligations.ConditionsRaisedByTable := by
  intro i s t h
  cases hb : busOp i with
  | true => exact exec_raised_of_busOp hb h
  | false => exact exec_raised_of_not_busOp hb h
end

section
/-! SUPPORT. What legal parameters say of the map, and what is read of a cleared shift register and of a ring whose cursors
are equal, as RESET leaves both (70_reset_and_hazards.md R230). -/

namespace Sys2Proof

/-- Legal parameters have a legal map (00_scope.md R9). -/
theorem Params.map_of_wf {p : Params} (h : p.wf = true) : p.map.wf = true := by
  simp only [Params.wf, Bool.and_eq_true] at h
  obtain ⟨⟨⟨⟨⟨⟨⟨hmap, _⟩, _⟩, _⟩, _⟩, _⟩, _⟩, _⟩ := h
  exact hmap

end Sys2Proof

namespace Sys2Proof.Machine

variable {s : State}

/-- Equal cursors leave nothing to pull (45_audio_ring.md R177). -/
theorem availNow_of_cursors_eq (h : s.wr = s.rd) : availNow s = 0 := by
  rw [availNow, availOf, h, sub_self, Int.zero_emod, Int.toNat_zero]

/-- The `j`-th Shifting read of a cleared register returns 0, and 1 from the ninth read on (41_input_latch.md R117). -/
theorem serialByte_cleared {r : Byte} (hr : r = 0) (j : Nat) :
    (if j < 8 then serialByte (r.getLsbD j) else 0x41) = if j < 8 then 0x40 else 0x41 := by
  rw [hr, show (0 : Byte).getLsbD j = false from BitVec.getLsbD_zero]
  rfl

theorem runOps_port1_cleared (hm : s.cfg.map.wf = true) (hs : s.strobe = false) (hr : s.shift1 = 0) (k : Nat) :
    ∃ t, runOps (List.replicate k (.cpur s.cfg.map.port1Addr)) s =
      some (t, (List.range k).map (fun j => .byte (if j < 8 then 0x40 else 0x41))) := by
  obtain ⟨t, hrun, _⟩ := runOps_port1_shifting hm hs k
  simp only [serialByte_cleared hr] at hrun
  exact ⟨t, hrun⟩

theorem runOps_port2_cleared (hm : s.cfg.map.wf = true) (hc : s.connected = false) (hs : s.strobe = false)
    (hr : s.shift2 = 0) (k : Nat) :
    ∃ t, runOps (List.replicate k (.cpur s.cfg.map.port2Addr)) s =
      some (t, (List.range k).map (fun j => .byte (if j < 8 then 0x40 else 0x41))) := by
  obtain ⟨t, hrun, _⟩ := runOps_port2_shifting hm hc hs k
  simp only [serialByte_cleared hr] at hrun
  exact ⟨t, hrun⟩

end Sys2Proof.Machine

open Sys2Proof Sys2Proof.Machine

/-- Settles O53: after reset the latch is in Shifting over two cleared registers, the mask and the slot are zero, and the
cursors are equal, so that every pull falls short. -/
theorem resetObservables : Obligations.ResetObservables := by
  rintro p s hwf rfl
  have hmap : p.map.wf = true := Params.map_of_wf hwf
  have havail : availNow { State.reset with cfg := p } = 0 := availNow_of_cursors_eq rfl
  refine ⟨fun k => ?_, rfl, rfl, ⟨[], rfl, Memory.read_nil⟩, fun n hn => ?_, ?_⟩
  · obtain ⟨t, hport1⟩ := runOps_port1_cleared (s := { State.reset with cfg := p }) hmap rfl rfl k
    obtain ⟨u, hport2⟩ := runOps_port2_cleared (s := { State.reset with cfg := p }) hmap rfl rfl rfl k
    exact ⟨t, u, hport1, hport2⟩
  · refine ⟨_, exec_apull n rfl, ?_⟩
    rw [pullSamples_of_short (havail.trans_lt hn)]
    rfl
  · exact havail ▸ (availIsCursorDifference _).1

/-- Settles O52: the fields that `resetState` does not keep are those of `State.reset`, whose two memories are empty. -/
theorem resetInstallsResetValues : Obligations.ResetInstallsResetValues :=
  fun s => ⟨resetState s, rfl, by simp [resetState, State.reset, Memory.read_nil]⟩
end
